-- ==== Sys2Proof/Word.lean ====
section
/-! DEFINITION. The value types of the PS2000B telegram codec engine (TCE): spec/00_scope.md rule R7. -/

namespace Sys2Proof

/-- A byte, 8 bits, unsigned (R7). -/
abbrev Byte := BitVec 8

/-- A word of a telegram, 16 bits, unsigned (R7): a checksum, a 2-byte field. -/
abbrev Half := BitVec 16

/-- A long, 32 bits, unsigned (R7): a register value as the host reads it, a 4-byte field. -/
abbrev Long := BitVec 32

/-- A command word, 32 bits (R70). -/
abbrev CommandWord := BitVec 32

end Sys2Proof
end

