-- ==== Sys2Proof/Syntax.lean ====
section
/-! DEFINITION. The commands of the TCE: one constructor per row of spec/opcode_table.json
(spec/30_encoding.md rule R77), its operands at the widths of rules R70 to R74. -/

namespace Sys2Proof

/-- A command. The types of the operands are the widths of their fields, so every term has a command word;
that an expected-data-length is 1 to 16 is no condition on the word but a check of ENCQ and ENCC (R74). -/
inductive Instr where
  /-- NOP: do nothing (R170). -/
  | nop
  /-- ENCQ obj, len: encode a query telegram (R111). -/
  | encq (obj : BitVec 8) (len : BitVec 5)
  /-- ENCC obj, len: encode a control-with-data telegram (R112). -/
  | encc (obj : BitVec 8) (len : BitVec 5)
  /-- PCLR: empty the param staging buffer (R113). -/
  | pclr
  /-- PPUSH byte: append one param byte (R114). -/
  | ppush (b : BitVec 8)
  /-- RXCLR: empty the receive buffer (R131). -/
  | rxclr
  /-- RXPUSH byte: append one received byte (R132). -/
  | rxpush (b : BitVec 8)
  /-- DECODE: parse and verify the received bytes (R133). -/
  | decode
  /-- RDB k: read one data byte (R151). -/
  | rdb (k : BitVec 8)
  /-- RDW k: read a big-endian 16-bit word (R152). -/
  | rdw (k : BitVec 8)
  /-- RDF k: read a big-endian 32-bit pattern (R153). -/
  | rdf (k : BitVec 8)
  /-- RDS: the length of the terminated string (R154). -/
  | rds
deriving DecidableEq, Repr

end Sys2Proof
end

