-- ==== Sys2Proof/Decode.lean ====
section
/-! DEFINITION. The command word (spec/30_encoding.md rules R70 to R77, R85): its fields, the opcode table,
the decoder, total on every 32-bit word and rejecting by name, and the encoder. -/

namespace Sys2Proof

/-- OP = w[31:24] (R71). -/
def opField (w : CommandWord) : BitVec 8 := w.extractLsb' 24 8

/-- OBJ = w[23:16], and the byte B of PPUSH and RXPUSH (R72). -/
def objField (w : CommandWord) : BitVec 8 := w.extractLsb' 16 8

/-- K = w[15:8] (R73). -/
def offsetField (w : CommandWord) : BitVec 8 := w.extractLsb' 8 8

/-- L = w[4:0] (R74). -/
def lenField (w : CommandWord) : BitVec 5 := w.extractLsb' 0 5

/-- A row of the opcode table (R77): the word w selects it when w & mask = pattern. -/
structure OpcodeRow where
  mask : CommandWord
  pattern : CommandWord
deriving DecidableEq, Repr

/-- `w & mask == match` (R77, R172). -/
def OpcodeRow.selects (r : OpcodeRow) (w : CommandWord) : Bool := w &&& r.mask == r.pattern

def rowNop : OpcodeRow := ⟨0xFFFFFFFF#32, 0x00000000#32⟩
def rowEncq : OpcodeRow := ⟨0xFF00FFE0#32, 0x01000000#32⟩
def rowEncc : OpcodeRow := ⟨0xFF00FFE0#32, 0x02000000#32⟩
def rowPclr : OpcodeRow := ⟨0xFFFFFFFF#32, 0x03000000#32⟩
def rowPpush : OpcodeRow := ⟨0xFF00FFFF#32, 0x04000000#32⟩
def rowRxclr : OpcodeRow := ⟨0xFFFFFFFF#32, 0x05000000#32⟩
def rowRxpush : OpcodeRow := ⟨0xFF00FFFF#32, 0x06000000#32⟩
def rowDecode : OpcodeRow := ⟨0xFFFFFFFF#32, 0x07000000#32⟩
def rowRdb : OpcodeRow := ⟨0xFFFF00FF#32, 0x08000000#32⟩
def rowRdw : OpcodeRow := ⟨0xFFFF00FF#32, 0x09000000#32⟩
def rowRdf : OpcodeRow := ⟨0xFFFF00FF#32, 0x0A000000#32⟩
def rowRds : OpcodeRow := ⟨0xFFFFFFFF#32, 0x0B000000#32⟩

/-- The assigned rows of R77, in the table's order. -/
def opcodeTable : List OpcodeRow :=
  [rowNop, rowEncq, rowEncc, rowPclr, rowPpush, rowRxclr,
   rowRxpush, rowDecode, rowRdb, rowRdw, rowRdf, rowRds]

/-- Why a word spells no command (R85). -/
inductive DecodeError where
  /-- OP is 0x0C..0xFF: the opcode is unassigned. -/
  | unassignedOpcode (op : BitVec 8)
  /-- OP is assigned, and a bit that its row requires to be 0 is set (R75). -/
  | reservedBitSet (op : BitVec 8)
deriving DecidableEq, Repr

/-- The name of the rejection of a word no row selects (R85). -/
def rejection (w : CommandWord) : DecodeError :=
  if opField w ≤ 0x0B#8 then .reservedBitSet (opField w) else .unassignedOpcode (opField w)

/-- Dispatch (R172): the command of the row the word selects, with the fields of R71 to R74. -/
def decode (w : CommandWord) : Except DecodeError Instr :=
  if rowNop.selects w then .ok .nop
  else if rowEncq.selects w then .ok (.encq (objField w) (lenField w))
  else if rowEncc.selects w then .ok (.encc (objField w) (lenField w))
  else if rowPclr.selects w then .ok .pclr
  else if rowPpush.selects w then .ok (.ppush (objField w))
  else if rowRxclr.selects w then .ok .rxclr
  else if rowRxpush.selects w then .ok (.rxpush (objField w))
  else if rowDecode.selects w then .ok .decode
  else if rowRdb.selects w then .ok (.rdb (offsetField w))
  else if rowRdw.selects w then .ok (.rdw (offsetField w))
  else if rowRdf.selects w then .ok (.rdf (offsetField w))
  else if rowRds.selects w then .ok .rds
  else .error (rejection w)

/-- A command word from its four byte-wide lanes, bit 31 first: OP, OBJ or B, K, and bits 7:0 (R70). -/
def layoutWord (op obj k low : BitVec 8) : CommandWord := op ++ obj ++ k ++ low

/-- The encoder: the encoding patterns below R77. -/
def encode : Instr → CommandWord
  | .nop => layoutWord 0x00#8 0#8 0#8 0#8
  | .encq obj len => layoutWord 0x01#8 obj 0#8 (0#3 ++ len)
  | .encc obj len => layoutWord 0x02#8 obj 0#8 (0#3 ++ len)
  | .pclr => layoutWord 0x03#8 0#8 0#8 0#8
  | .ppush b => layoutWord 0x04#8 b 0#8 0#8
  | .rxclr => layoutWord 0x05#8 0#8 0#8 0#8
  | .rxpush b => layoutWord 0x06#8 b 0#8 0#8
  | .decode => layoutWord 0x07#8 0#8 0#8 0#8
  | .rdb k => layoutWord 0x08#8 0#8 k 0#8
  | .rdw k => layoutWord 0x09#8 0#8 k 0#8
  | .rdf k => layoutWord 0x0A#8 0#8 k 0#8
  | .rds => layoutWord 0x0B#8 0#8 0#8 0#8

/-- The command word whose low `nbits` bits are those of `w`, every other bit 0: a command word is one 32-bit
number, transferred whole (R56). -/
def tableWord (nbits w : Nat) : CommandWord := BitVec.ofNat 32 (w % 2 ^ nbits)

/-- What the decoder reads from the opcode table's numbering of a word's bits. -/
def decodeTableWord (nbits w : Nat) : Option Instr := (decode (tableWord nbits w)).toOption

end Sys2Proof
end

