-- ==== Sys2Proof/Machine/Memory.lean ====
section
/-! DEFINITION. Byte memory: the three buffers TXBUF, PARAM and RXBUF (spec/20_memory.md rules R50, R51, R54) are
each a list of (index, byte) cells in one canonical form. -/

namespace Sys2Proof.Machine

/-- A buffer's contents: the cells whose byte is not the one an unlisted index reads as, indexes strictly rising. -/
abbrev Memory := List Host.Cell

/-- What an unlisted index reads as: every buffer byte is 0x00 after reset (R24, R26, R28, R200). -/
def unlistedByte : Byte := 0x00#8

/-- The canonical form of a buffer of `size` bytes: rising indexes, none outside the buffer, no cell equal to what
an unlisted index reads as. -/
abbrev Memory.wf (size : Nat) (m : Memory) : Prop :=
  m.Pairwise (fun x y => x.1 < y.1) ∧ ∀ c ∈ m, c.1 < size ∧ c.2 ≠ unlistedByte

/-- BUF[i] (R8). -/
def Memory.read : Memory → Nat → Byte
  | [], _ => unlistedByte
  | c :: m, i => if c.1 = i then c.2 else Memory.read m i

/-- The cells but those at index i. -/
def Memory.remove : Memory → Nat → Memory
  | [], _ => []
  | c :: m, i => if c.1 = i then Memory.remove m i else c :: Memory.remove m i

/-- The cells with (i, b) in its place among the rising indexes. -/
def Memory.place : Memory → Nat → Byte → Memory
  | [], i, b => [(i, b)]
  | c :: m, i, b =>
    if i < c.1 then (i, b) :: c :: m
    else if i = c.1 then (i, b) :: m
    else c :: Memory.place m i b

/-- BUF[i] <- b (R8). -/
def Memory.write (m : Memory) (i : Nat) (b : Byte) : Memory :=
  if b = unlistedByte then m.remove i else m.place i b

/-- The n bytes BUF[i] .. BUF[i+n-1], in index order. -/
def Memory.readBytes (m : Memory) (i : Nat) : Nat → List Byte
  | 0 => []
  | n + 1 => m.read i :: Memory.readBytes m (i + 1) n

/-- BUF[i] <- b0, BUF[i+1] <- b1, ... in index order. -/
def Memory.writeBytes : Memory → Nat → List Byte → Memory
  | m, _, [] => m
  | m, i, b :: bs => Memory.writeBytes (m.write i b) (i + 1) bs

/-- MemRead(BUF, i, 1) (R54). -/
def Memory.read1 (m : Memory) (i : Nat) : Byte := m.read i

/-- MemRead(BUF, i, 2), big-endian: BUF[i] is the high byte (R54, R55). -/
def Memory.read2 (m : Memory) (i : Nat) : Half := m.read i ++ m.read (i + 1)

/-- MemRead(BUF, i, 4), big-endian: BUF[i] is bits 31:24 (R54, R55). -/
def Memory.read4 (m : Memory) (i : Nat) : Long :=
  m.read i ++ m.read (i + 1) ++ m.read (i + 2) ++ m.read (i + 3)

end Sys2Proof.Machine
end

