-- ==== Sys2Proof/Machine/Checksum.lean ====
section
/-! DEFINITION. The checksum engine (spec/40_checksum.md). -/

namespace Sys2Proof.Machine

/-- The exact sum of bytes taken as unsigned integers (R8, R100). -/
def byteSum : List Byte → Nat
  | [] => 0
  | b :: bs => b.toNat + byteSum bs

/-- The checksum of some bytes: their sum modulo 65536 (R100). -/
def csum (bs : List Byte) : Half := BitVec.ofNat 16 (byteSum bs)

/-- CSUM(BUF, i, j), of the bytes BUF[i] .. BUF[j-1] (R100). -/
def Memory.csum (m : Memory) (i j : Nat) : Half := Sys2Proof.Machine.csum (m.readBytes i (j - i))

/-- CK_HI = ck[15:8] (R101). -/
def ckHi (ck : Half) : Byte := ck.extractLsb' 8 8

/-- CK_LO = ck[7:0] (R101). -/
def ckLo (ck : Half) : Byte := ck.extractLsb' 0 8

/-- The checksum computed over a frame of n bytes: of those before the last two (R102, R103). -/
def Memory.calcChecksum (m : Memory) (n : Nat) : Half := m.csum 0 (n - 2)

/-- The checksum a frame of n bytes carries: its last two bytes, high first (R102, R103). -/
def Memory.recvChecksum (m : Memory) (n : Nat) : Half := m.read2 (n - 2)

/-- Verification of a frame of n ≥ 2 bytes (R103). -/
def Memory.frameValid (m : Memory) (n : Nat) : Bool := m.calcChecksum n == m.recvChecksum n

end Sys2Proof.Machine
end

