-- ==== Sys2Proof/Config.lean ====
section
/-! DEFINITION. The implementation parameters of spec/00_scope.md rule R6, and the parameters of the host
that the spec leaves OPEN (spec/92_eei_decisions.md D30). RX_CAP, the one parameter a build may choose,
is the field `rxCap` of the machine's state, so that every statement covers every build. -/

namespace Sys2Proof.Config

/-- TX_MAX: the capacity of TXBUF, and the length of the largest outbound frame (R6). -/
abbrev txMax : Nat := 21

/-- ELEN_MIN: the least legal expected-data-length (R6). -/
abbrev elenMin : Nat := 1

/-- ELEN_MAX: the greatest legal expected-data-length (R6). -/
abbrev elenMax : Nat := 16

/-- PARAM_MAX: the number of param bytes PARAM holds (R6). -/
abbrev paramMax : Nat := 16

/-- NODE: the device-node byte of every outbound telegram (R6, D25). -/
def node : Byte := 0x00#8

/-- DATA_OFF: the index of the first data byte of an inbound frame (R6, D8, conflict C1). -/
abbrev dataOff : Nat := 4

/-- MIN_RX = DATA_OFF + 2: the shortest inbound frame DECODE accepts (R6, D9). -/
abbrev minRx : Nat := dataOff + 2

/-- The value RX_CAP takes unless the build chooses another (R6, D7). -/
abbrev rxCapDefault : Nat := 22

/-- The least RX_CAP a build may choose (R6, D7). -/
abbrev rxCapMin : Nat := 22

/-- The greatest RX_CAP a build may choose (R6, D7). -/
abbrev rxCapMax : Nat := 128

/-- SWITCH_MODE_CMD, an OPEN parameter of the host (R89, D30): no value is known of it. -/
opaque switchModeCmd : Byte

/-- REMOTE, an OPEN parameter of the host (R89, D30): no value is known of it. -/
opaque remote : Byte

/-- MANUAL, an OPEN parameter of the host (R89, D30): no value is known of it. -/
opaque manual : Byte

/-- SWITCH_POWER_OUTPUT_CMD, an OPEN parameter of the host (R89, D30): no value is known of it. -/
opaque switchPowerOutputCmd : Byte

/-- ON, an OPEN parameter of the host (R89, D30): no value is known of it. -/
opaque outputOn : Byte

/-- OFF, an OPEN parameter of the host (R89, D30): no value is known of it. -/
opaque outputOff : Byte

end Sys2Proof.Config
end

