-- ==== Sys2Proof/Machine/State.lean ====
section
/-! DEFINITION. The state of the TCE (spec/10_state.md rules R20 to R45), the host's side of its interface
(spec/20_memory.md rule R53), and the state after reset (spec/70_reset_and_hazards.md rules R200, R201). -/

namespace Sys2Proof.Machine

/-- What the host may do to the TCE: exactly three things (R53). -/
inductive HostAction where
  /-- HostCommand(w): write a command word, which the TCE executes as one atomic step (R53, R59). -/
  | command (w : CommandWord)
  /-- HostRead(r): read register number r (R52). -/
  | read (r : BitVec 8)
  /-- HostReset (R200). -/
  | reset
deriving DecidableEq, Repr

/-- Every piece of state the spec names (R21 to R38), then what the model itself adds: the build parameter RX_CAP
and the host's side of the interface (notes/assumptions 1 to 3). -/
structure State where
  /-- STATUS, 8 bits: the status code of the most recent command (R21). -/
  status : BitVec 8
  /-- STICKY, 32 bits: bit c is 1 when some command since reset ended with code c (R22). -/
  sticky : BitVec 32
  /-- RESULT, 32 bits: the value of the most recent field read that completed (R23). -/
  result : BitVec 32
  /-- TXBUF, 21 bytes (R24). -/
  txbuf : Memory
  /-- TXLEN, 5 bits holding 0 or 5..21 (R25; `Fin 22` in the record of 10_state.md section 9). -/
  txlen : Fin 22
  /-- PARAM, 16 bytes (R26). -/
  param : Memory
  /-- PLEN, 5 bits holding 0..16 (R27; `Fin 17` in the record of 10_state.md section 9). -/
  plen : Fin 17
  /-- RXBUF, RX_CAP bytes (R28). -/
  rxbuf : Memory
  /-- RXLEN, 8 bits holding 0..RX_CAP (R29). -/
  rxlen : BitVec 8
  /-- RX_OVF, 1 bit (R30). -/
  rxOvf : Bool
  /-- RX_PRESENT, 1 bit (R31). -/
  rxPresent : Bool
  /-- RX_VALID, 1 bit (R32). -/
  rxValid : Bool
  /-- RX_SD, 8 bits (R33). -/
  rxSd : BitVec 8
  /-- RX_NODE, 8 bits (R34). -/
  rxNode : BitVec 8
  /-- RX_OBJ, 8 bits (R35). -/
  rxObj : BitVec 8
  /-- RX_DLEN, 8 bits (R36). -/
  rxDlen : BitVec 8
  /-- CK_RECV, 16 bits (R37). -/
  ckRecv : BitVec 16
  /-- CK_CALC, 16 bits (R38). -/
  ckCalc : BitVec 16
  /-- The MODEL's own: RX_CAP of this build, 22..128, which nothing changes (R6, R202; note 1). -/
  rxCap : Nat
  /-- The MODEL's own: what the host has yet to do, its next action first (R3, R53, R63; note 2). -/
  pending : List HostAction
  /-- The MODEL's own: the value the last HostRead returned to the host, if there was one (R52; note 3). -/
  readReply : Option (BitVec 32)
deriving DecidableEq, Repr

/-- Why a step can stop with a fault. -/
inductive Fault where
  /-- Raised by RXPUSH, DECODE, RDB, RDW, RDF and RDS when the index they compute lies at or above RX_CAP, where
  RXBUF has no byte. R51: no command does so; only a state in which RXLEN or RX_DLEN exceeds what R29 and R39 allow
  can raise it. Safe: no run reaches such a state (note 4). -/
  | rxIndexOutside
deriving DecidableEq, Repr

/-- Why a step can be refused. -/
inductive Refusal where
  /-- Raised by an arm of `exec` whose instruction has no meaning yet. Safe. No arm of this model raises it. -/
  | notModelled (mnemonic : String)
deriving DecidableEq, Repr

/-- What a command or a step answers. -/
abbrev Result := Host.Outcome State Fault Refusal

/-- Power-on of a build with the given RX_CAP: every register and buffer byte at its reset value (R200, R201),
nothing pending from the host and nothing returned to it. -/
def State.powerOn (rxCap : Nat) : State where
  status := 0x00#8
  sticky := 0x00000000#32
  result := 0x00000000#32
  txbuf := []
  txlen := 0
  param := []
  plen := 0
  rxbuf := []
  rxlen := 0#8
  rxOvf := false
  rxPresent := false
  rxValid := false
  rxSd := 0x00#8
  rxNode := 0x00#8
  rxObj := 0x00#8
  rxDlen := 0#8
  ckRecv := 0x0000#16
  ckCalc := 0x0000#16
  rxCap := rxCap
  pending := []
  readReply := none

/-- The machine right after reset, with the default RX_CAP (R6, R200, R201). -/
def State.reset : State := State.powerOn Config.rxCapDefault

end Sys2Proof.Machine
end

