-- ==== Sys2Proof/Machine/Flags.lean ====
section
/-! DEFINITION. The status codes (spec/60_exceptions.md rule R181), the sticky bits (R22, R182 to R184) and the
packed receive flags (spec/10_state.md rule R40). -/

namespace Sys2Proof.Machine

/-- The named status codes (R181). -/
inductive StatusCode where
  | ok
  | cksumBad
  | errLen
  | errParamFull
  | errShort
  | errRxOvf
  | errNoframe
  | errRange
  | errIllegal
  /-- Reserved: no command produces it (R197). -/
  | deviceError
deriving DecidableEq, Repr

/-- The 8-bit value of a status code in STATUS (R181). -/
def StatusCode.code : StatusCode → BitVec 8
  | .ok => 0x00#8
  | .cksumBad => 0x01#8
  | .errLen => 0x02#8
  | .errParamFull => 0x03#8
  | .errShort => 0x04#8
  | .errRxOvf => 0x05#8
  | .errNoframe => 0x06#8
  | .errRange => 0x07#8
  | .errIllegal => 0x08#8
  | .deviceError => 0x09#8

/-- 1 << E, the STICKY bit of a code (R181, R182). -/
def StatusCode.bit (e : StatusCode) : BitVec 32 := 1#32 <<< e.code.toNat

/-- STICKY after a command that completed with code e: only a code other than OK sets its bit (R183). -/
def stickyAfter (e : StatusCode) (sticky : BitVec 32) : BitVec 32 :=
  if e = .ok then sticky else sticky ||| e.bit

/-- A flag as a bit of a 32-bit value. -/
def flagBit (b : Bool) : BitVec 32 := if b then 1#32 else 0#32

/-- RXFLAGS: RX_OVF << 2 | RX_VALID << 1 | RX_PRESENT (R40). -/
def rxFlags (s : State) : BitVec 32 :=
  flagBit s.rxOvf <<< 2 ||| flagBit s.rxValid <<< 1 ||| flagBit s.rxPresent

end Sys2Proof.Machine
end

