-- ==== Sys2Proof/Machine/Ops.lean ====
section
/-! DEFINITION. The named updates of the state that the commands share, and the two ways a command ends
(spec/60_exceptions.md rules R182, R183). The TCE has no exception that transfers control and so no return from one
(R180, R186, R187): reporting an error, `raise`, is the one shared operation in its place. -/

namespace Sys2Proof.Machine

/-- The writes of `raise E`: STATUS and STICKY, nothing else (R182). -/
def State.raised (e : StatusCode) (s : State) : State :=
  { s with status := e.code, sticky := s.sticky ||| e.bit }

/-- The writes of `complete(E)` after those of the command: STATUS, and STICKY if E is not OK (R183). -/
def State.completed (e : StatusCode) (s : State) : State :=
  { s with status := e.code, sticky := stickyAfter e s.sticky }

/-- `raise E`: end the command with an error (R182). -/
def raise (e : StatusCode) (s : State) : Result := .next (s.raised e)

/-- `complete(E)`: end the command after its writes (R183). -/
def complete (e : StatusCode) (s : State) : Result := .next (s.completed e)

/-- ClearRx(): withdraw the decoded telegram and zero its registers (R130). -/
def State.clearRx (s : State) : State :=
  { s with
    rxPresent := false
    rxValid := false
    rxSd := 0x00#8
    rxNode := 0x00#8
    rxObj := 0x00#8
    rxDlen := 0#8
    ckRecv := 0x0000#16
    ckCalc := 0x0000#16 }

/-- RESULT <- v (R151 to R154). -/
def State.setResult (v : BitVec 32) (s : State) : State := { s with result := v }

/-- TXBUF <- the new contents, TXLEN <- the new length (R111, R112). -/
def State.setTx (buf : Memory) (len : Fin 22) (s : State) : State := { s with txbuf := buf, txlen := len }

/-- PLEN <- n (R113). -/
def State.setPlen (n : Fin 17) (s : State) : State := { s with plen := n }

/-- PARAM <- the new contents, PLEN <- n (R114). -/
def State.setParam (buf : Memory) (n : Fin 17) (s : State) : State := { s with param := buf, plen := n }

/-- RXLEN <- 0, RX_OVF <- 0 (R131). -/
def State.emptyRx (s : State) : State := { s with rxlen := 0#8, rxOvf := false }

/-- RXBUF <- the new contents, RXLEN <- n (R132). -/
def State.setRx (buf : Memory) (n : BitVec 8) (s : State) : State := { s with rxbuf := buf, rxlen := n }

/-- RX_OVF <- 1 (R132). -/
def State.markOvf (s : State) : State := { s with rxOvf := true }

/-- The decoded telegram of the n bytes in RXBUF, with the checksum it carries and the one computed (R133). -/
def State.setDecoded (n : Nat) (recv computed : Half) (s : State) : State :=
  { s with
    rxPresent := true
    rxValid := computed == recv
    rxSd := s.rxbuf.read 0
    rxNode := s.rxbuf.read 1
    rxObj := s.rxbuf.read 3
    rxDlen := BitVec.ofNat 8 (n - Config.minRx)
    ckRecv := recv
    ckCalc := computed }

/-- What the host has yet to do. -/
def State.setPending (acts : List HostAction) (s : State) : State := { s with pending := acts }

/-- The value HostRead returns to the host. -/
def State.setReply (v : BitVec 32) (s : State) : State := { s with readReply := some v }

/-- HostReset(): every register and buffer at its reset value; the build and the host's side stay (R200). -/
def hostReset (s : State) : State :=
  { State.powerOn s.rxCap with pending := s.pending, readReply := s.readReply }

/-- The frame in TXBUF: TXBUF[0 .. TXLEN-1], in the order it goes on the serial line (R24, R68, R69). -/
def State.txFrame (s : State) : List Byte := s.txbuf.readBytes 0 s.txlen.val

end Sys2Proof.Machine
end

