-- ==== Sys2Proof/Machine/Control.lean ====
section
/-! DEFINITION. The control family (spec/44_control.md): NOP, and what a word that spells no command does. -/

namespace Sys2Proof.Machine

/-- NOP (R170). -/
def execNop (s : State) : Result := complete .ok s

/-- Illegal(w): an illegal command word, decided from the word alone (R171). -/
def execIllegal (s : State) : Result := raise .errIllegal s

end Sys2Proof.Machine
end

