-- ==== Sys2Proof/Machine/Operands.lean ====
section
/-! DEFINITION. The operand checks and operand forms the commands share: the expected-data-length and the
start-delimiter (spec/41_encode.md rule R110), the outbound frame (spec/30_encoding.md rule R80), and the data bytes
of the decoded telegram (spec/43_field_read.md rule R150). -/

namespace Sys2Proof.Machine

/-- L is in 1..16 (R6, R111, R112). -/
def lenLegal (len : BitVec 5) : Bool := Config.elenMin ≤ len.toNat && len.toNat ≤ Config.elenMax

/-- The transmission type of a query, 0b01 (R79). -/
def ttQuery : BitVec 2 := 0b01#2

/-- The transmission type of a control-with-data telegram, 0b11 (R79). -/
def ttControl : BitVec 2 := 0b11#2

/-- MakeSD(tt, L) = tt << 6 | 0b11 << 4 | (L - 1), for 1 ≤ L ≤ 16 (R78, R110). -/
def makeSD (tt : BitVec 2) (len : BitVec 5) : Byte :=
  tt.setWidth 8 <<< 6 ||| 0b11#8 <<< 4 ||| (len.setWidth 8 - 1#8)

/-- The bytes of an outbound telegram before its checksum: start-delimiter, NODE, object-id, params (R80). -/
def frameBody (tt : BitVec 2) (obj : Byte) (len : BitVec 5) (params : List Byte) : List Byte :=
  makeSD tt len :: Config.node :: obj :: params

/-- An outbound telegram: its body, then the body's checksum, high byte first (R80, R101, R102). -/
def outFrame (tt : BitVec 2) (obj : Byte) (len : BitVec 5) (params : List Byte) : List Byte :=
  frameBody tt obj len params ++
    [ckHi (csum (frameBody tt obj len params)), ckLo (csum (frameBody tt obj len params))]

/-- The 21 bytes an encode writes to TXBUF: the frame, then 0x00 up to index 20 (R111, R112, D15). -/
def txImage (frame : List Byte) : List Byte := frame ++ List.replicate (Config.txMax - frame.length) 0x00#8

/-- The staged param bytes PARAM[0 .. PLEN-1] (R26, R112); every index is below 16. -/
def State.stagedParams (s : State) : List Byte := s.param.readBytes 0 s.plen.val

/-- Encode a telegram into TXBUF and complete with OK, or report ERR_LEN (R111, R112). -/
def encodeTelegram (tt : BitVec 2) (obj : Byte) (len : BitVec 5) (params : List Byte) (txlen : Fin 22)
    (s : State) : Result :=
  if lenLegal len then
    complete .ok (s.setTx (s.txbuf.writeBytes 0 (txImage (outFrame tt obj len params))) txlen)
  else raise .errLen s

/-- DataCheck(K, width): the error it raises, if any (R150); the sum is exact. -/
def dataCheck (k : BitVec 8) (width : Nat) (s : State) : Option StatusCode :=
  if s.rxPresent = false then some .errNoframe
  else if s.rxDlen.toNat < k.toNat + width then some .errRange
  else none

/-- Read the field of `width` data bytes at offset k: `value` is what RESULT takes, given RXBUF and the index of the
field's first byte (R150 to R153). -/
def readField (k : BitVec 8) (width : Nat) (value : Memory → Nat → BitVec 32) (s : State) : Result :=
  match dataCheck k width s with
  | some e => raise e s
  | none =>
    if s.rxCap < Config.dataOff + k.toNat + width then .fault .rxIndexOutside
    else complete .ok (s.setResult (value s.rxbuf (Config.dataOff + k.toNat)))

/-- The number of data bytes RDS examines: all but the last (R154). -/
def keptLength (dlen : Nat) : Nat := if 1 ≤ dlen then dlen - 1 else 0

/-- The length of a string that ends before its first NUL, or with its last byte (R154). -/
def stringLength (bs : List Byte) : Nat := (bs.takeWhile (fun b => b != 0x00#8)).length

end Sys2Proof.Machine
end

