-- ==== Sys2Proof/Machine/Decoder.lean ====
section
/-! DEFINITION. The decoder family (spec/42_decode.md): RXCLR, RXPUSH, DECODE. -/

namespace Sys2Proof.Machine

/-- RXCLR (R131): the RXBUF bytes stay. -/
def execRxclr (s : State) : Result := complete .ok s.emptyRx.clearRx

/-- RXPUSH byte (R132). -/
def execRxpush (b : BitVec 8) (s : State) : Result :=
  if s.rxlen.toNat = s.rxCap then complete .errRxOvf s.markOvf.clearRx
  else if s.rxCap < s.rxlen.toNat then .fault .rxIndexOutside
  else complete .ok (s.setRx (s.rxbuf.write s.rxlen.toNat b) (s.rxlen + 1#8)).clearRx

/-- DECODE (R133): the checks in the order of R185. -/
def execDecode (s : State) : Result :=
  if s.rxOvf then raise .errRxOvf s
  else if s.rxlen.toNat < Config.minRx then raise .errShort s
  else if s.rxCap < s.rxlen.toNat then .fault .rxIndexOutside
  else
    complete (if s.rxbuf.frameValid s.rxlen.toNat then .ok else .cksumBad)
      (s.setDecoded s.rxlen.toNat (s.rxbuf.recvChecksum s.rxlen.toNat) (s.rxbuf.calcChecksum s.rxlen.toNat))

end Sys2Proof.Machine
end

