-- ==== Sys2Proof/Machine/Encoder.lean ====
section
/-! DEFINITION. The encoder family (spec/41_encode.md): ENCQ, ENCC, PCLR, PPUSH. -/

namespace Sys2Proof.Machine

/-- ENCQ obj, len (R111). -/
def execEncq (obj : BitVec 8) (len : BitVec 5) (s : State) : Result :=
  encodeTelegram ttQuery obj len [] 5 s

/-- ENCC obj, len (R112): the params are the staged bytes, and the length 5 + PLEN is at most 21. -/
def execEncc (obj : BitVec 8) (len : BitVec 5) (s : State) : Result :=
  encodeTelegram ttControl obj len s.stagedParams ⟨5 + s.plen.val, by omega⟩ s

/-- PCLR (R113): the PARAM bytes stay. -/
def execPclr (s : State) : Result := complete .ok (s.setPlen 0)

/-- PPUSH byte (R114). -/
def execPpush (b : BitVec 8) (s : State) : Result :=
  if h : s.plen.val < Config.paramMax then
    complete .ok (s.setParam (s.param.write s.plen.val b) ⟨s.plen.val + 1, Nat.succ_lt_succ h⟩)
  else raise .errParamFull s

end Sys2Proof.Machine
end

