-- ==== Sys2Proof/Machine/FieldRead.lean ====
section
/-! DEFINITION. The field-read family (spec/43_field_read.md): RDB, RDW, RDF, RDS. -/

namespace Sys2Proof.Machine

/-- RDB k (R151). -/
def execRdb (k : BitVec 8) (s : State) : Result :=
  readField k 1 (fun buf i => (buf.read1 i).setWidth 32) s

/-- RDW k (R152): zero-extended, never sign-extended. -/
def execRdw (k : BitVec 8) (s : State) : Result :=
  readField k 2 (fun buf i => (buf.read2 i).setWidth 32) s

/-- RDF k (R153): the pattern unchanged. -/
def execRdf (k : BitVec 8) (s : State) : Result :=
  readField k 4 (fun buf i => buf.read4 i) s

/-- RDS (R154): drop the last data byte, then stop at the first NUL. -/
def execRds (s : State) : Result :=
  if s.rxPresent = false then raise .errNoframe s
  else if s.rxCap < Config.dataOff + keptLength s.rxDlen.toNat then .fault .rxIndexOutside
  else
    complete .ok
      (s.setResult (BitVec.ofNat 32 (stringLength (s.rxbuf.readBytes Config.dataOff (keptLength s.rxDlen.toNat)))))

end Sys2Proof.Machine
end

