-- ==== Sys2Proof/Machine/Dispatch.lean ====
section
/-! DEFINITION. One arm per command: spec/44_control.md rule R172. -/

namespace Sys2Proof.Machine

def exec (i : Instr) (s : State) : Host.Outcome State Fault Refusal :=
  match i with
  | .nop => Sys2Proof.Machine.execNop s
  | .encq obj len => Sys2Proof.Machine.execEncq obj len s
  | .encc obj len => Sys2Proof.Machine.execEncc obj len s
  | .pclr => Sys2Proof.Machine.execPclr s
  | .ppush b => Sys2Proof.Machine.execPpush b s
  | .rxclr => Sys2Proof.Machine.execRxclr s
  | .rxpush b => Sys2Proof.Machine.execRxpush b s
  | .decode => Sys2Proof.Machine.execDecode s
  | .rdb k => Sys2Proof.Machine.execRdb k s
  | .rdw k => Sys2Proof.Machine.execRdw k s
  | .rdf k => Sys2Proof.Machine.execRdf k s
  | .rds => Sys2Proof.Machine.execRds s

end Sys2Proof.Machine
end

