-- ==== Sys2Proof/Machine/HostRead.lean ====
section
/-! DEFINITION. The register view (spec/20_memory.md rule R52, spec/10_state.md rules R40 to R43). -/

namespace Sys2Proof.Machine

/-- RX_TT: the decoded transmission type, RX_SD[7:6] (R41). -/
def rxTt (s : State) : BitVec 32 := (s.rxSd.extractLsb' 6 2).setWidth 32

/-- RX_ELEN: RX_SD[3:0] + 1, an exact sum, when a telegram is decoded, and 0 otherwise (R41). -/
def rxElen (s : State) : BitVec 32 :=
  if s.rxPresent then (s.rxSd.extractLsb' 0 4).setWidth 32 + 1#32 else 0#32

/-- CAPS: RX_CAP | DATA_OFF << 8 | TX_MAX << 16 | PARAM_MAX << 24 (R42). -/
def caps (s : State) : BitVec 32 :=
  BitVec.ofNat 32 s.rxCap ||| BitVec.ofNat 32 Config.dataOff <<< 8 |||
    BitVec.ofNat 32 Config.txMax <<< 16 ||| BitVec.ofNat 32 Config.paramMax <<< 24

/-- The registers numbered 0x00 to 0x0F (R43). -/
def scalarRegister (s : State) : Nat → BitVec 32
  | 0x00 => s.status.setWidth 32
  | 0x01 => s.sticky
  | 0x02 => s.result
  | 0x03 => BitVec.ofNat 32 s.txlen.val
  | 0x04 => BitVec.ofNat 32 s.plen.val
  | 0x05 => s.rxlen.setWidth 32
  | 0x06 => rxFlags s
  | 0x07 => s.rxSd.setWidth 32
  | 0x08 => s.rxNode.setWidth 32
  | 0x09 => s.rxObj.setWidth 32
  | 0x0A => s.rxDlen.setWidth 32
  | 0x0B => s.ckRecv.setWidth 32
  | 0x0C => s.ckCalc.setWidth 32
  | 0x0D => rxTt s
  | 0x0E => rxElen s
  | 0x0F => caps s
  | _ => 0#32

/-- HostRead(r): the 32-bit value of register number r; a reserved number reads 0 (R52). -/
def hostRead (s : State) (r : BitVec 8) : BitVec 32 :=
  let n := r.toNat
  if n < 0x10 then scalarRegister s n
  else if 0x20 ≤ n ∧ n < 0x20 + Config.txMax then (s.txbuf.read (n - 0x20)).setWidth 32
  else if 0x40 ≤ n ∧ n < 0x40 + Config.paramMax then (s.param.read (n - 0x40)).setWidth 32
  else if 0x80 ≤ n ∧ n - 0x80 < s.rxCap then (s.rxbuf.read (n - 0x80)).setWidth 32
  else 0#32

end Sys2Proof.Machine
end

