-- ==== Sys2Proof/Machine/HostPort.lean ====
section
/-! DEFINITION. The host interface (spec/20_memory.md rule R53): what each of the host's three actions does, and the
step that takes the host's next action. -/

namespace Sys2Proof.Machine

/-- HostCommand(w): run the command the word spells, or Illegal(w) (R53, R172). -/
def hostCommand (w : CommandWord) (s : State) : Result :=
  match decode w with
  | .ok i => exec i s
  | .error _ => execIllegal s

/-- One action of the host (R53): a command, a register read that changes no register (R52), or a reset (R200). -/
def perform (a : HostAction) (s : State) : Result :=
  match a with
  | .command w => hostCommand w s
  | .read r => .next (s.setReply (hostRead s r))
  | .reset => .next (hostReset s)

/-- The host's next action, taken off what it has yet to do; with none, the TCE is idle and holds all its state
(R63, R195). -/
def hostStep (s : State) : Result :=
  match s.pending with
  | [] => .next s
  | a :: rest => perform a (s.setPending rest)

/-- The given command word as what the host does next. -/
def issueNext (w : CommandWord) (s : State) : State := s.setPending (.command w :: s.pending)

/-- A sequence of command words, one after another (R63): the state they leave and the status code each ended with,
unless one of them stops. -/
def runWords : List CommandWord → State → Option (State × List (BitVec 8))
  | [], s => some (s, [])
  | w :: ws, s =>
    match hostCommand w s with
    | .next t => (runWords ws t).map (fun r => (r.1, t.status :: r.2))
    | .fault _ => none
    | .refused _ => none

end Sys2Proof.Machine
end

