-- ==== Sys2Proof/Machine/Step.lean ====
section
/-! DEFINITION. One step: the host's next action (spec/20_memory.md rules R53, R63). -/

namespace Sys2Proof.Machine

/-- One step of the machine: the host's next action, whole (R59, R63). -/
def step (s : State) : Host.Outcome State Fault Refusal := hostStep s

/-- The state in which the host's next action is to issue the word whose table bits are w (note 2). -/
def State.withFetchWord (s : State) (nbits w : Nat) : State := issueNext (tableWord nbits w) s

end Sys2Proof.Machine
end

