-- ==== Sys2Proof/Asm.lean ====
section
/-! DEFINITION. A line of assembly as spec/30_encoding.md rules R76 and R88 write it, before any check:
operands are numbers of any size. -/

namespace Sys2Proof

/-- One line of assembly: the twelve commands of R76, then the five pseudo-instructions of R88. -/
inductive AsmLine where
  | nop
  | encq (obj len : Nat)
  | encc (obj len : Nat)
  | pclr
  | ppush (byte : Nat)
  | rxclr
  | rxpush (byte : Nat)
  | decode
  | rdb (k : Nat)
  | rdw (k : Nat)
  | rdf (k : Nat)
  | rds
  /-- QUERY obj, len (R88). -/
  | query (obj len : Nat)
  /-- CONTROL obj, len, p0, ..., p(N-1), with 0 ≤ N ≤ 16 (R88). -/
  | control (obj len : Nat) (params : List Nat)
  /-- SETWORD obj, len, raw, with raw 0..65535 (R88). -/
  | setword (obj len raw : Nat)
  /-- RXLOAD b0, ..., b(n-1), with n ≤ RX_CAP (R88). -/
  | rxload (bytes : List Nat)
  /-- RECV b0, ..., b(n-1) (R88). -/
  | recv (bytes : List Nat)
deriving DecidableEq, Repr

end Sys2Proof
end

