-- ==== Sys2Proof/WellFormed.lean ====
section
/-! DEFINITION. What may be written: the operand ranges an assembler enforces (spec/30_encoding.md rules R76 and
R88). A term of `Instr` needs no check of its own: its operands have the widths of their fields (R70 to R74). -/

namespace Sys2Proof

/-- An object-ID, a data byte or an offset fits its 8-bit field (R76). -/
def fitsByte (v : Nat) : Bool := v < 256

/-- An expected-data-length fits its 5-bit field: up to 31, so that a program can exercise ERR_LEN (R76). -/
def fitsLen (v : Nat) : Bool := v < 32

/-- The line's operands are ones the assembler accepts, for a build with the given RX_CAP: each fits its field
(R76), at most 16 param bytes, a 16-bit raw value, and at most RX_CAP received bytes (R88). -/
def AsmLine.wf (rxCap : Nat) : AsmLine → Bool
  | .nop | .pclr | .rxclr | .decode | .rds => true
  | .encq obj len | .encc obj len | .query obj len => fitsByte obj && fitsLen len
  | .ppush b | .rxpush b => fitsByte b
  | .rdb k | .rdw k | .rdf k => fitsByte k
  | .control obj len params =>
      fitsByte obj && fitsLen len && decide (params.length ≤ Config.paramMax) && params.all fitsByte
  | .setword obj len raw => fitsByte obj && fitsLen len && decide (raw < 65536)
  | .rxload bytes | .recv bytes => decide (bytes.length ≤ rxCap) && bytes.all fitsByte

end Sys2Proof
end

