-- ==== Sys2Proof/Machine/Assembler.lean ====
section
/-! DEFINITION. The assembler of spec/30_encoding.md rule R76 with the pseudo-instructions of rule R88, and the
host's exchanges of spec/20_memory.md rule R68 as the actions they are. Text is a list of characters. -/

namespace Sys2Proof.Machine

/-- PPUSH of each byte in order (R88). -/
def pushParams (ps : List Nat) : List Instr := ps.map (fun p => .ppush (BitVec.ofNat 8 p))

/-- PCLR, PPUSH p0 ... PPUSH p(N-1), ENCC obj, len: the expansion of CONTROL (R88). -/
def controlCommands (obj len : Nat) (ps : List Nat) : List Instr :=
  .pclr :: (pushParams ps ++ [.encc (BitVec.ofNat 8 obj) (BitVec.ofNat 5 len)])

/-- RXCLR, RXPUSH b0 ... RXPUSH b(n-1): the expansion of RXLOAD (R88). -/
def rxloadCommands (bs : List Nat) : List Instr := .rxclr :: bs.map (fun b => .rxpush (BitVec.ofNat 8 b))

/-- The commands a line stands for (R76, R88). -/
def expandLine : AsmLine → List Instr
  | .nop => [.nop]
  | .encq obj len => [.encq (BitVec.ofNat 8 obj) (BitVec.ofNat 5 len)]
  | .encc obj len => [.encc (BitVec.ofNat 8 obj) (BitVec.ofNat 5 len)]
  | .pclr => [.pclr]
  | .ppush b => [.ppush (BitVec.ofNat 8 b)]
  | .rxclr => [.rxclr]
  | .rxpush b => [.rxpush (BitVec.ofNat 8 b)]
  | .decode => [.decode]
  | .rdb k => [.rdb (BitVec.ofNat 8 k)]
  | .rdw k => [.rdw (BitVec.ofNat 8 k)]
  | .rdf k => [.rdf (BitVec.ofNat 8 k)]
  | .rds => [.rds]
  | .query obj len => [.encq (BitVec.ofNat 8 obj) (BitVec.ofNat 5 len)]
  | .control obj len ps => controlCommands obj len ps
  | .setword obj len raw => controlCommands obj len [raw / 256, raw % 256]
  | .rxload bs => rxloadCommands bs
  | .recv bs => rxloadCommands bs ++ [.decode]

/-- The commands of a line the assembler accepts; none for a line it rejects (R76, R88). -/
def assemble (rxCap : Nat) (line : AsmLine) : Option (List Instr) :=
  if line.wf rxCap then some (expandLine line) else none

/-- A space or a tab (note 8). -/
def isBlank (c : Char) : Bool := c == ' ' || c == '\t'

/-- The line up to `;`, which starts a comment (R76). -/
def stripComment (cs : List Char) : List Char := cs.takeWhile (fun c => c != ';')

/-- The text without the blanks at its two ends. -/
def trimBlanks (cs : List Char) : List Char :=
  ((cs.dropWhile isBlank).reverse.dropWhile isBlank).reverse

/-- The value of a digit in the given base. -/
def digitValue (base : Nat) (c : Char) : Option Nat :=
  let n := c.toNat
  let v := if 48 ≤ n ∧ n ≤ 57 then n - 48 else if 65 ≤ n ∧ n ≤ 70 then n - 55 else if 97 ≤ n ∧ n ≤ 102 then n - 87 else base
  if v < base then some v else none

/-- The number that the digits write after `acc`. -/
def parseDigits (base : Nat) : Nat → List Char → Option Nat
  | acc, [] => some acc
  | acc, c :: cs =>
    match digitValue base c with
    | some d => parseDigits base (acc * base + d) cs
    | none => none

/-- A number, decimal or `0x` hexadecimal (R76). -/
def parseNumber : List Char → Option Nat
  | [] => none
  | '0' :: 'x' :: d :: ds => parseDigits 16 0 (d :: ds)
  | c :: cs => parseDigits 10 0 (c :: cs)

/-- The texts between commas. -/
def splitCommas : List Char → List (List Char)
  | [] => [[]]
  | c :: cs =>
    if c = ',' then [] :: splitCommas cs
    else
      match splitCommas cs with
      | [] => [[c]]
      | p :: ps => (c :: p) :: ps

/-- The operands' values, in order. -/
def parseNumbers : List (List Char) → Option (List Nat)
  | [] => some []
  | t :: ts =>
    match parseNumber (trimBlanks t), parseNumbers ts with
    | some n, some ns => some (n :: ns)
    | _, _ => none

/-- The operands of a line: none, or numbers separated by commas (R76). -/
def parseOperands (cs : List Char) : Option (List Nat) :=
  if trimBlanks cs = [] then some [] else parseNumbers (splitCommas cs)

/-- The line a mnemonic and its operands spell (R76, R88). -/
def lineOf (mnemonic : List Char) (ops : List Nat) : Option AsmLine :=
  if mnemonic = ['N', 'O', 'P'] then (match ops with | [] => some .nop | _ => none)
  else if mnemonic = ['E', 'N', 'C', 'Q'] then (match ops with | [o, l] => some (.encq o l) | _ => none)
  else if mnemonic = ['E', 'N', 'C', 'C'] then (match ops with | [o, l] => some (.encc o l) | _ => none)
  else if mnemonic = ['P', 'C', 'L', 'R'] then (match ops with | [] => some .pclr | _ => none)
  else if mnemonic = ['P', 'P', 'U', 'S', 'H'] then (match ops with | [b] => some (.ppush b) | _ => none)
  else if mnemonic = ['R', 'X', 'C', 'L', 'R'] then (match ops with | [] => some .rxclr | _ => none)
  else if mnemonic = ['R', 'X', 'P', 'U', 'S', 'H'] then (match ops with | [b] => some (.rxpush b) | _ => none)
  else if mnemonic = ['D', 'E', 'C', 'O', 'D', 'E'] then (match ops with | [] => some .decode | _ => none)
  else if mnemonic = ['R', 'D', 'B'] then (match ops with | [k] => some (.rdb k) | _ => none)
  else if mnemonic = ['R', 'D', 'W'] then (match ops with | [k] => some (.rdw k) | _ => none)
  else if mnemonic = ['R', 'D', 'F'] then (match ops with | [k] => some (.rdf k) | _ => none)
  else if mnemonic = ['R', 'D', 'S'] then (match ops with | [] => some .rds | _ => none)
  else if mnemonic = ['Q', 'U', 'E', 'R', 'Y'] then (match ops with | [o, l] => some (.query o l) | _ => none)
  else if mnemonic = ['C', 'O', 'N', 'T', 'R', 'O', 'L'] then
    (match ops with | o :: l :: ps => some (.control o l ps) | _ => none)
  else if mnemonic = ['S', 'E', 'T', 'W', 'O', 'R', 'D'] then
    (match ops with | [o, l, r] => some (.setword o l r) | _ => none)
  else if mnemonic = ['R', 'X', 'L', 'O', 'A', 'D'] then some (.rxload ops)
  else if mnemonic = ['R', 'E', 'C', 'V'] then some (.recv ops)
  else none

/-- What a line of text is. -/
inductive ParsedLine where
  /-- Nothing but blanks and a comment. -/
  | blank
  /-- A command or a pseudo-instruction. -/
  | line (l : AsmLine)
  /-- Neither: it spells no line of R76 or R88. -/
  | malformed
deriving DecidableEq, Repr

/-- A line of text: the mnemonic, then its operands separated by commas; `;` starts a comment (R76). -/
def parseLine (cs : List Char) : ParsedLine :=
  let text := trimBlanks (stripComment cs)
  if text = [] then .blank
  else
    match parseOperands (text.dropWhile (fun c => !isBlank c)) with
    | none => .malformed
    | some ops =>
      match lineOf (text.takeWhile (fun c => !isBlank c)) ops with
      | some l => .line l
      | none => .malformed

/-- The host's reads of the frame it sends: registers 0x20 .. 0x20 + TXLEN - 1 in index order (R68, R69). -/
def sendReads (txlen : Nat) : List HostAction :=
  (List.range txlen).map (fun i => .read (BitVec.ofNat 8 (0x20 + i)))

/-- The host's actions on a reply: RXCLR, one RXPUSH per byte in arrival order, then DECODE (R68). -/
def receiveActions (reply : List Byte) : List HostAction :=
  (Instr.rxclr :: (reply.map Instr.rxpush ++ [Instr.decode])).map (fun i => .command (encode i))

end Sys2Proof.Machine
end

