-- ==== Sys2Proof/Machine/Objects.lean ====
section
/-! DEFINITION. The object-ID address space as an encoding table (spec/30_encoding.md rules R83, R89). No command
compares an object-id with it (R83, D28): it is what a host draws its operands from. -/

namespace Sys2Proof.Machine

/-- The objects the source uses (R83). -/
inductive ObjectId where
  | deviceType
  | serialNo
  | nominalVoltage
  | nominalCurrent
  | nominalPower
  | articleNo
  | manufacturer
  | firmwareVersion
  | voltageSetpoint
  | currentSetpoint
  | supplyControl
  | actualStatus
deriving DecidableEq, Repr

/-- The object-id byte (R83). -/
def ObjectId.code : ObjectId → BitVec 8
  | .deviceType => 0x00#8
  | .serialNo => 0x01#8
  | .nominalVoltage => 0x02#8
  | .nominalCurrent => 0x03#8
  | .nominalPower => 0x04#8
  | .articleNo => 0x06#8
  | .manufacturer => 0x08#8
  | .firmwareVersion => 0x09#8
  | .voltageSetpoint => 0x32#8
  | .currentSetpoint => 0x33#8
  | .supplyControl => 0x36#8
  | .actualStatus => 0x47#8

/-- The expected-data-length of a query of the object; none for the object that is only controlled (R83). -/
def ObjectId.queryLen : ObjectId → Option (BitVec 5)
  | .deviceType | .serialNo | .articleNo | .manufacturer | .firmwareVersion => some 16#5
  | .nominalVoltage | .nominalCurrent | .nominalPower => some 4#5
  | .voltageSetpoint | .currentSetpoint => some 2#5
  | .actualStatus => some 6#5
  | .supplyControl => none

/-- What an object's data bytes carry (R83, R84). -/
inductive DataKind where
  | string
  | float
  | word
  | statusRecord
  | switchParams
deriving DecidableEq, Repr

/-- The data of each object (R83). -/
def ObjectId.dataKind : ObjectId → DataKind
  | .deviceType | .serialNo | .articleNo | .manufacturer | .firmwareVersion => .string
  | .nominalVoltage | .nominalCurrent | .nominalPower => .float
  | .voltageSetpoint | .currentSetpoint => .word
  | .actualStatus => .statusRecord
  | .supplyControl => .switchParams

/-- A field read the table names as a helper (R83): with the offset it gives, or, with none, at any offset, which the
consumer names (R84). -/
inductive Helper where
  | rds
  | rdb (k : Option (BitVec 8))
  | rdw (k : Option (BitVec 8))
  | rdf (k : Option (BitVec 8))
deriving DecidableEq, Repr

/-- The helpers of each object, in the table's order: RDS, RDF 0, RDW 0, and RDW and RDB for the status record; none for
the object that is only controlled (R83). -/
def ObjectId.helpers (o : ObjectId) : List Helper :=
  match o.dataKind with
  | .string => [.rds]
  | .float => [.rdf (some 0#8)]
  | .word => [.rdw (some 0#8)]
  | .statusRecord => [.rdw none, .rdb none]
  | .switchParams => []

/-- The command of a helper; `k` is the offset the consumer names where the table gives none (R83, R84). -/
def Helper.command (k : BitVec 8) : Helper → Instr
  | .rds => .rds
  | .rdb given => .rdb (given.getD k)
  | .rdw given => .rdw (given.getD k)
  | .rdf given => .rdf (given.getD k)

/-- The query of an object, where R83 gives its length. -/
def ObjectId.query (o : ObjectId) : Option Instr := o.queryLen.map (fun len => .encq o.code len)

/-- The control operations the source names (R89). -/
inductive ControlOp where
  | setVoltage (raw : BitVec 16)
  | setCurrent (raw : BitVec 16)
  | enableRemoteControl
  | disableRemoteControl
  | enableOutput
  | disableOutput
deriving DecidableEq, Repr

/-- The object each control operation writes (R89). -/
def ControlOp.object : ControlOp → ObjectId
  | .setVoltage _ => .voltageSetpoint
  | .setCurrent _ => .currentSetpoint
  | .enableRemoteControl | .disableRemoteControl | .enableOutput | .disableOutput => .supplyControl

/-- A 16-bit raw setpoint as two param bytes, high byte first (R55, R89). -/
def rawParams (raw : BitVec 16) : List Byte := [raw.extractLsb' 8 8, raw.extractLsb' 0 8]

/-- The param bytes of each control operation (R89); the six constants are OPEN (D30). -/
def ControlOp.params : ControlOp → List Byte
  | .setVoltage raw => rawParams raw
  | .setCurrent raw => rawParams raw
  | .enableRemoteControl => [Config.switchModeCmd, Config.remote]
  | .disableRemoteControl => [Config.switchModeCmd, Config.manual]
  | .enableOutput => [Config.switchPowerOutputCmd, Config.outputOn]
  | .disableOutput => [Config.switchPowerOutputCmd, Config.outputOff]

/-- The commands of a control operation with the expected-data-length the host chooses (R88, R89, D12). -/
def ControlOp.commands (op : ControlOp) (len : BitVec 5) : List Instr :=
  .pclr :: (op.params.map Instr.ppush ++ [.encc op.object.code len])

end Sys2Proof.Machine
end

