-- ==== Sys2Proof/Safety.lean ====
section
/-! DEFINITION. What a legal state and a safe step are, in the terms the statements use (spec/10_state.md rules R24,
R29, R39, R44; spec/60_exceptions.md rule R180), and what it means that a part of the state is left alone. -/

namespace Sys2Proof.Machine

/-- Two buffers hold the same byte at every index. -/
def SameBytes (m m' : Memory) : Prop := ∀ i, m'.read i = m.read i

/-- STATUS and STICKY are left alone. -/
def SameStatus (s t : State) : Prop := t.status = s.status ∧ t.sticky = s.sticky

/-- TXBUF and TXLEN are left alone. -/
def SameTx (s t : State) : Prop := SameBytes s.txbuf t.txbuf ∧ t.txlen = s.txlen

/-- PARAM and PLEN are left alone. -/
def SameParam (s t : State) : Prop := SameBytes s.param t.param ∧ t.plen = s.plen

/-- RXBUF, RXLEN and RX_OVF are left alone. -/
def SameRx (s t : State) : Prop := SameBytes s.rxbuf t.rxbuf ∧ t.rxlen = s.rxlen ∧ t.rxOvf = s.rxOvf

/-- The decoded-telegram registers of R31 to R38 are left alone. -/
def SameDecoded (s t : State) : Prop :=
  t.rxPresent = s.rxPresent ∧ t.rxValid = s.rxValid ∧ t.rxSd = s.rxSd ∧ t.rxNode = s.rxNode ∧
  t.rxObj = s.rxObj ∧ t.rxDlen = s.rxDlen ∧ t.ckRecv = s.ckRecv ∧ t.ckCalc = s.ckCalc

/-- The build parameter and the host's side, the model's own fields (notes 1 to 3), are left alone. -/
def SameHost (s t : State) : Prop :=
  t.rxCap = s.rxCap ∧ t.pending = s.pending ∧ t.readReply = s.readReply

/-- No telegram is decoded and its registers are all zero (R39, R130). -/
def NoTelegram (s : State) : Prop :=
  s.rxPresent = false ∧ s.rxValid = false ∧ s.rxSd = 0#8 ∧ s.rxNode = 0#8 ∧ s.rxObj = 0#8 ∧
  s.rxDlen = 0#8 ∧ s.ckRecv = 0#16 ∧ s.ckCalc = 0#16

/-- The legal states: the invariants R24, R29, R39 and R44 state, the range of RX_CAP (R6), and the canonical form of
the three buffers. -/
structure Inv (s : State) : Prop where
  /-- 22 ≤ RX_CAP ≤ 128 (R6). -/
  rxCap_range : Config.rxCapMin ≤ s.rxCap ∧ s.rxCap ≤ Config.rxCapMax
  txbuf_wf : s.txbuf.wf Config.txMax
  param_wf : s.param.wf Config.paramMax
  rxbuf_wf : s.rxbuf.wf s.rxCap
  /-- TXLEN is 0 or 5..21 (R25, R44). -/
  txlen_legal : s.txlen.val = 0 ∨ 5 ≤ s.txlen.val
  /-- TXBUF[TXLEN .. 20] are 0 (R24), so all of TXBUF is 0 while TXLEN is (R44). -/
  txbuf_zero_past : ∀ i, s.txlen.val ≤ i → s.txbuf.read i = 0x00#8
  /-- RXLEN ≤ RX_CAP (R29, R44). -/
  rxlen_le : s.rxlen.toNat ≤ s.rxCap
  /-- STICKY bit 0 and bits 31..9 are 0 (R22, R44, R197). -/
  sticky_clear : s.sticky &&& 0xFFFFFE01#32 = 0#32
  /-- STATUS is a code of R181 other than DEVICE_ERROR (R44). -/
  status_legal : ∃ e : StatusCode, e ≠ .deviceError ∧ s.status = e.code
  /-- RX_PRESENT = 0: the decoded registers are all 0 (R39). -/
  decoded_absent : s.rxPresent = false → NoTelegram s
  /-- RX_PRESENT = 1: RX_VALID is the comparison, and DATA_OFF + RX_DLEN + 2 = RXLEN (R39). -/
  decoded_present : s.rxPresent = true →
    s.rxValid = (s.ckRecv == s.ckCalc) ∧ Config.dataOff + s.rxDlen.toNat + 2 = s.rxlen.toNat

/-- While a telegram is decoded its registers describe the bytes now in RXBUF (R31, R133, D16), and after an
overflow RXBUF is full and no telegram is decoded (R132, R133). -/
structure DescribesRxbuf (s : State) : Prop where
  telegram : s.rxPresent = true →
    s.rxSd = s.rxbuf.read 0 ∧ s.rxNode = s.rxbuf.read 1 ∧ s.rxObj = s.rxbuf.read 3 ∧
    s.ckRecv = s.rxbuf.recvChecksum s.rxlen.toNat ∧ s.ckCalc = s.rxbuf.calcChecksum s.rxlen.toNat
  overflow : s.rxOvf = true → s.rxlen.toNat = s.rxCap ∧ s.rxPresent = false

/-- TXBUF holds no frame, or one whose checksum verifies (R106). -/
def TxFrameVerifies (s : State) : Prop := s.txlen.val = 0 ∨ s.txbuf.frameValid s.txlen.val = true

/-- The step stops with neither a fault nor a refusal (R180). -/
def Continues (s : State) : Prop := ∃ t, step s = .next t

/-- The exact sum BUF[i] + ... + BUF[i+n-1] (R8, R100). -/
def sumBytes (m : Memory) (i n : Nat) : Nat := ((List.range n).map (fun k => (m.read (i + k)).toNat)).sum

/-- Data byte k of the decoded telegram, RXBUF[DATA_OFF + k] (R81, R150). -/
def dataByte (s : State) (k : Nat) : Byte := s.rxbuf.read (4 + k)

/-- The four field reads (43_field_read.md). -/
def isFieldRead : Instr → Bool
  | .rdb _ | .rdw _ | .rdf _ | .rds => true
  | .nop | .encq _ _ | .encc _ _ | .pclr | .ppush _ | .rxclr | .rxpush _ | .decode => false

/-- The commands R60 names as idempotent. -/
def isIdempotent : Instr → Bool
  | .pclr | .rxclr | .nop | .encq _ _ | .decode | .rdb _ | .rdw _ | .rdf _ | .rds => true
  | .encc _ _ | .ppush _ | .rxpush _ => false

/-- A sequence of commands, one after another; none where one of them stops. -/
def execAll : List Instr → State → Option State
  | [], s => some s
  | i :: is, s =>
    match exec i s with
    | .next t => execAll is t
    | .fault _ => none
    | .refused _ => none

end Sys2Proof.Machine
end

