-- ==== Sys2Proof/Certificates/Slice0/Obligations.lean ====
section
/-! DEFINITION. The statements about the TCE that the provers settle. -/

section
open Sys2Proof Sys2Proof.Machine

/-! ### The command word -/

/-- Every command is decoded from its own word, with every operand as it was encoded (R70 to R77). -/
def Obligations.DecodeOfEncodeIsTheCommand : Prop :=
  ∀ i : Instr, decode (encode i) = .ok i

/-- A word that decodes to a command is that command's only word: no bit of it is dropped (R75). -/
def Obligations.EncodeOfDecodeIsTheWord : Prop :=
  ∀ (w : CommandWord) (i : Instr), decode w = .ok i → encode i = w

/-- R77, with the fields of R71 to R74: each assigned row, written out, selects its command; the rows are disjoint;
a word that none selects is rejected. -/
def Obligations.DecodeFollowsTheOpcodeMap : Prop :=
  (∀ w : CommandWord,
    (w &&& 0xFFFFFFFF#32 = 0x00000000#32 → decode w = .ok .nop) ∧
    (w &&& 0xFF00FFE0#32 = 0x01000000#32 → decode w = .ok (.encq (w.extractLsb' 16 8) (w.extractLsb' 0 5))) ∧
    (w &&& 0xFF00FFE0#32 = 0x02000000#32 → decode w = .ok (.encc (w.extractLsb' 16 8) (w.extractLsb' 0 5))) ∧
    (w &&& 0xFFFFFFFF#32 = 0x03000000#32 → decode w = .ok .pclr) ∧
    (w &&& 0xFF00FFFF#32 = 0x04000000#32 → decode w = .ok (.ppush (w.extractLsb' 16 8))) ∧
    (w &&& 0xFFFFFFFF#32 = 0x05000000#32 → decode w = .ok .rxclr) ∧
    (w &&& 0xFF00FFFF#32 = 0x06000000#32 → decode w = .ok (.rxpush (w.extractLsb' 16 8))) ∧
    (w &&& 0xFFFFFFFF#32 = 0x07000000#32 → decode w = .ok .decode) ∧
    (w &&& 0xFFFF00FF#32 = 0x08000000#32 → decode w = .ok (.rdb (w.extractLsb' 8 8))) ∧
    (w &&& 0xFFFF00FF#32 = 0x09000000#32 → decode w = .ok (.rdw (w.extractLsb' 8 8))) ∧
    (w &&& 0xFFFF00FF#32 = 0x0A000000#32 → decode w = .ok (.rdf (w.extractLsb' 8 8))) ∧
    (w &&& 0xFFFFFFFF#32 = 0x0B000000#32 → decode w = .ok .rds)) ∧
  (∀ (w : CommandWord) (r r' : OpcodeRow), r ∈ opcodeTable → r' ∈ opcodeTable →
    w &&& r.mask = r.pattern → w &&& r'.mask = r'.pattern → r = r') ∧
  (∀ w : CommandWord, (∀ r ∈ opcodeTable, w &&& r.mask ≠ r.pattern) → ∃ e, decode w = .error e)

/-- Words written out from the encoding patterns below R77 decode to the commands they stand for, and two illegal words
are rejected (a sanity check). That a rejection has a name, and which, is the model's choice (note 10). -/
def Obligations.SampleWordsDecode : Prop :=
  decode 0x00000000#32 = .ok .nop ∧
  decode 0x01470006#32 = .ok (.encq 0x47#8 6#5) ∧
  decode 0x02320002#32 = .ok (.encc 0x32#8 2#5) ∧
  decode 0x04320000#32 = .ok (.ppush 0x32#8) ∧
  decode 0x06750000#32 = .ok (.rxpush 0x75#8) ∧
  decode 0x09000200#32 = .ok (.rdw 2#8) ∧
  decode 0x01470026#32 = .error (.reservedBitSet 0x01#8) ∧
  decode 0xFF000000#32 = .error (.unassignedOpcode 0xFF#8)

/-- R85 and R171: which words are illegal, and that such a word writes STATUS = ERR_ILLEGAL and STICKY bit 8 and
nothing else. -/
def Obligations.IllegalWordsChangeOnlyStatusAndSticky : Prop :=
  ∀ w : CommandWord,
    ((∃ e, decode w = .error e) ↔
      0x0C ≤ (w.extractLsb' 24 8).toNat ∨
      ((w.extractLsb' 24 8).toNat ≤ 0x0B ∧ ∀ r ∈ opcodeTable, w &&& r.mask ≠ r.pattern)) ∧
    ∀ (e : DecodeError) (s : State), decode w = .error e →
      hostCommand w s = .next { s with status := 0x08#8, sticky := s.sticky ||| 0x00000100#32 }

/-! ### The step -/

/-- The step runs the decoded command (R53, R172): where the host's next action is a word that decodes to i, the step is
exec of i on the state with that action taken off. That the actions to come stand in the state is the model's choice
(note 2). -/
def Obligations.StepRunsTheDecodedCommand : Prop :=
  ∀ (s : State) (w : CommandWord) (rest : List HostAction) (i : Instr),
    s.pending = .command w :: rest → decode w = .ok i → step s = exec i { s with pending := rest }

/-- The other steps: an illegal word (R171), a register read, which changes no register or buffer (R52), a reset (R53, R200),
and, with nothing to do, an idle TCE that holds all its state (R195). The list of actions, the idle step, the recorded
reply and what a reset leaves of the model's own fields are the model's (notes 2, 3, 7). -/
def Obligations.StepServesTheHost : Prop :=
  (∀ (s : State) (w : CommandWord) (rest : List HostAction) (e : DecodeError),
    s.pending = .command w :: rest → decode w = .error e →
    step s = .next { s with pending := rest, status := 0x08#8, sticky := s.sticky ||| 0x00000100#32 }) ∧
  (∀ (s : State) (r : BitVec 8) (rest : List HostAction), s.pending = .read r :: rest →
    step s = .next { s with pending := rest, readReply := some (hostRead s r) }) ∧
  (∀ (s : State) (rest : List HostAction), s.pending = .reset :: rest →
    step s = .next { hostReset s with pending := rest }) ∧
  (∀ s : State, s.pending = [] → step s = .next s)

/-! ### Reset and the register view -/

/-- R200: HostReset puts every register and buffer byte at its reset value, whatever the state. R201: the machine starts
in the same state. -/
def Obligations.ResetClearsEveryRegister : Prop :=
  ∀ s t : State, t = hostReset s ∨ t = State.reset →
    t.status = 0#8 ∧ t.sticky = 0#32 ∧ t.result = 0#32 ∧ (∀ i, t.txbuf.read i = 0#8) ∧ t.txlen.val = 0 ∧
    (∀ i, t.param.read i = 0#8) ∧ t.plen.val = 0 ∧ (∀ i, t.rxbuf.read i = 0#8) ∧ t.rxlen = 0#8 ∧
    t.rxOvf = false ∧ NoTelegram t

/-- The reset column of R43 through the register view: after reset every number but CAPS reads 0, and CAPS reads
RX_CAP | 0x10150400 (R42), which is 0x10150416 in the default build. -/
def Obligations.ResetRegisterView : Prop :=
  (∀ (cap : Nat) (r : BitVec 8), 22 ≤ cap → cap ≤ 128 →
    hostRead (State.powerOn cap) r = if r = 0x0F#8 then BitVec.ofNat 32 cap ||| 0x10150400#32 else 0#32) ∧
  hostRead State.reset 0x0F#8 = 0x10150416#32

/-- R52 with R40 to R43: the whole register map, on every state of a build with RX_CAP at most 128, and that a read changes
no register and so no later read. That the value returned is recorded in `readReply` is the model's choice (note 3). -/
def Obligations.HostReadFollowsTheRegisterMap : Prop :=
  ∀ s : State, s.rxCap ≤ 128 →
    hostRead s 0x00#8 = s.status.setWidth 32 ∧
    hostRead s 0x01#8 = s.sticky ∧
    hostRead s 0x02#8 = s.result ∧
    hostRead s 0x03#8 = BitVec.ofNat 32 s.txlen.val ∧
    hostRead s 0x04#8 = BitVec.ofNat 32 s.plen.val ∧
    hostRead s 0x05#8 = s.rxlen.setWidth 32 ∧
    (hostRead s 0x06#8).toNat =
      4 * (if s.rxOvf then 1 else 0) + 2 * (if s.rxValid then 1 else 0) + (if s.rxPresent then 1 else 0) ∧
    hostRead s 0x07#8 = s.rxSd.setWidth 32 ∧
    hostRead s 0x08#8 = s.rxNode.setWidth 32 ∧
    hostRead s 0x09#8 = s.rxObj.setWidth 32 ∧
    hostRead s 0x0A#8 = s.rxDlen.setWidth 32 ∧
    hostRead s 0x0B#8 = s.ckRecv.setWidth 32 ∧
    hostRead s 0x0C#8 = s.ckCalc.setWidth 32 ∧
    (hostRead s 0x0D#8).toNat = s.rxSd.toNat / 64 ∧
    (hostRead s 0x0E#8).toNat = (if s.rxPresent then s.rxSd.toNat % 16 + 1 else 0) ∧
    (hostRead s 0x0F#8).toNat = s.rxCap + 4 * 2 ^ 8 + 21 * 2 ^ 16 + 16 * 2 ^ 24 ∧
    (∀ r : BitVec 8, 0x10 ≤ r.toNat → r.toNat ≤ 0x1F → hostRead s r = 0#32) ∧
    (∀ r : BitVec 8, 0x20 ≤ r.toNat → r.toNat ≤ 0x34 →
      hostRead s r = (s.txbuf.read (r.toNat - 0x20)).setWidth 32) ∧
    (∀ r : BitVec 8, 0x35 ≤ r.toNat → r.toNat ≤ 0x3F → hostRead s r = 0#32) ∧
    (∀ r : BitVec 8, 0x40 ≤ r.toNat → r.toNat ≤ 0x4F →
      hostRead s r = (s.param.read (r.toNat - 0x40)).setWidth 32) ∧
    (∀ r : BitVec 8, 0x50 ≤ r.toNat → r.toNat ≤ 0x7F → hostRead s r = 0#32) ∧
    (∀ r : BitVec 8, 0x80 ≤ r.toNat →
      hostRead s r = if r.toNat - 0x80 < s.rxCap then (s.rxbuf.read (r.toNat - 0x80)).setWidth 32 else 0#32) ∧
    (∀ r r' : BitVec 8, perform (.read r) s = .next { s with readReply := some (hostRead s r) } ∧
      hostRead { s with readReply := some (hostRead s r) } r' = hostRead s r')

/-! ### What each command does, and where it completes -/

/-- R170: NOP completes in every state; it writes STATUS = OK and nothing else. -/
def Obligations.NopWritesOnlyStatus : Prop :=
  ∀ s : State, exec .nop s = .next { s with status := 0x00#8 }

/-- R111: ENCQ with a legal L completes with the five bytes of the query in TXBUF and zeros behind them; with any other L
it reports ERR_LEN and changes nothing else. -/
def Obligations.EncqBuildsTheQuery : Prop :=
  ∀ (s : State) (obj : BitVec 8) (len : BitVec 5),
    (1 ≤ len.toNat ∧ len.toNat ≤ 16 →
      ∃ t, exec (.encq obj len) s = .next t ∧
        t.txlen.val = 5 ∧
        t.txbuf.read 0 = BitVec.ofNat 8 (0x70 + (len.toNat - 1)) ∧
        t.txbuf.read 1 = 0x00#8 ∧
        t.txbuf.read 2 = obj ∧
        t.txbuf.read 3 = BitVec.ofNat 8 ((0x70 + (len.toNat - 1) + obj.toNat) / 256) ∧
        t.txbuf.read 4 = BitVec.ofNat 8 (0x70 + (len.toNat - 1) + obj.toNat) ∧
        (∀ i, 5 ≤ i → i ≤ 20 → t.txbuf.read i = 0x00#8) ∧
        (∀ i, 21 ≤ i → t.txbuf.read i = s.txbuf.read i) ∧
        t.status = 0x00#8 ∧ t.sticky = s.sticky ∧ t.result = s.result ∧
        SameParam s t ∧ SameRx s t ∧ SameDecoded s t ∧ SameHost s t) ∧
    (len.toNat = 0 ∨ 17 ≤ len.toNat →
      exec (.encq obj len) s = .next { s with status := 0x02#8, sticky := s.sticky ||| 0x00000004#32 })

/-- R112: ENCC with a legal L completes with the control telegram of the N = PLEN staged bytes in TXBUF and zeros behind
it; with any other L it reports ERR_LEN and changes nothing else. -/
def Obligations.EnccBuildsTheControlTelegram : Prop :=
  ∀ (s : State) (obj : BitVec 8) (len : BitVec 5),
    (1 ≤ len.toNat ∧ len.toNat ≤ 16 →
      ∃ t, exec (.encc obj len) s = .next t ∧
        t.txlen.val = 5 + s.plen.val ∧
        t.txbuf.read 0 = BitVec.ofNat 8 (0xF0 + (len.toNat - 1)) ∧
        t.txbuf.read 1 = 0x00#8 ∧
        t.txbuf.read 2 = obj ∧
        (∀ i, i < s.plen.val → t.txbuf.read (3 + i) = s.param.read i) ∧
        t.txbuf.read (3 + s.plen.val) =
          BitVec.ofNat 8 ((0xF0 + (len.toNat - 1) + obj.toNat + sumBytes s.param 0 s.plen.val) % 65536 / 256) ∧
        t.txbuf.read (4 + s.plen.val) =
          BitVec.ofNat 8 ((0xF0 + (len.toNat - 1) + obj.toNat + sumBytes s.param 0 s.plen.val) % 65536) ∧
        (∀ i, 5 + s.plen.val ≤ i → i ≤ 20 → t.txbuf.read i = 0x00#8) ∧
        (∀ i, 21 ≤ i → t.txbuf.read i = s.txbuf.read i) ∧
        t.status = 0x00#8 ∧ t.sticky = s.sticky ∧ t.result = s.result ∧
        SameParam s t ∧ SameRx s t ∧ SameDecoded s t ∧ SameHost s t) ∧
    (len.toNat = 0 ∨ 17 ≤ len.toNat →
      exec (.encc obj len) s = .next { s with status := 0x02#8, sticky := s.sticky ||| 0x00000004#32 })

/-- R113: PCLR completes in every state; it writes PLEN = 0 and STATUS = OK, and leaves the PARAM bytes. -/
def Obligations.PclrEmptiesTheStage : Prop :=
  ∀ s : State, exec .pclr s = .next { s with plen := 0, status := 0x00#8 }

/-- R114: PPUSH stages its byte at PARAM[PLEN] and counts it, or, with 16 bytes staged, reports ERR_PARAM_FULL and changes
nothing else. -/
def Obligations.PpushStagesOneByte : Prop :=
  ∀ (s : State) (b : BitVec 8),
    (s.plen.val ≠ 16 →
      ∃ t, exec (.ppush b) s = .next t ∧
        t.param.read s.plen.val = b ∧
        (∀ i, i ≠ s.plen.val → t.param.read i = s.param.read i) ∧
        t.plen.val = s.plen.val + 1 ∧
        t.status = 0x00#8 ∧ t.sticky = s.sticky ∧ t.result = s.result ∧
        SameTx s t ∧ SameRx s t ∧ SameDecoded s t ∧ SameHost s t) ∧
    (s.plen.val = 16 →
      exec (.ppush b) s = .next { s with status := 0x03#8, sticky := s.sticky ||| 0x00000008#32 })

/-- R131 with ClearRx of R130: RXCLR completes in every state, and leaves the RXBUF bytes. -/
def Obligations.RxclrEmptiesTheReceiver : Prop :=
  ∀ s : State, exec .rxclr s = .next { s with
    rxlen := 0#8, rxOvf := false, rxPresent := false, rxValid := false, rxSd := 0x00#8, rxNode := 0x00#8,
    rxObj := 0x00#8, rxDlen := 0#8, ckRecv := 0x0000#16, ckCalc := 0x0000#16, status := 0x00#8 }

/-- R132: RXPUSH below the capacity stores its byte at RXBUF[RXLEN], counts it and withdraws the decoded telegram; at the
capacity it discards the byte, sets RX_OVF, withdraws the telegram and completes with ERR_RX_OVF. -/
def Obligations.RxpushAppendsOrOverflows : Prop :=
  ∀ (s : State) (b : BitVec 8), s.rxCap ≤ 128 →
    (s.rxlen.toNat < s.rxCap →
      ∃ t, exec (.rxpush b) s = .next t ∧
        t.rxbuf.read s.rxlen.toNat = b ∧
        (∀ i, i ≠ s.rxlen.toNat → t.rxbuf.read i = s.rxbuf.read i) ∧
        t.rxlen.toNat = s.rxlen.toNat + 1 ∧ t.rxOvf = s.rxOvf ∧ NoTelegram t ∧
        t.status = 0x00#8 ∧ t.sticky = s.sticky ∧ t.result = s.result ∧
        SameTx s t ∧ SameParam s t ∧ SameHost s t) ∧
    (s.rxlen.toNat = s.rxCap →
      exec (.rxpush b) s = .next { s with
        rxOvf := true, rxPresent := false, rxValid := false, rxSd := 0x00#8, rxNode := 0x00#8,
        rxObj := 0x00#8, rxDlen := 0#8, ckRecv := 0x0000#16, ckCalc := 0x0000#16,
        status := 0x05#8, sticky := s.sticky ||| 0x00000020#32 })

/-- R133: DECODE reports ERR_RX_OVF after an overflow and ERR_SHORT below 6 bytes, changing nothing else; otherwise it
completes with the decoded telegram, and the checksum's verdict is only a flag and a status. -/
def Obligations.DecodeParsesAndVerifies : Prop :=
  ∀ s : State, s.rxlen.toNat ≤ s.rxCap →
    (s.rxOvf = true →
      exec .decode s = .next { s with status := 0x05#8, sticky := s.sticky ||| 0x00000020#32 }) ∧
    (s.rxOvf = false → s.rxlen.toNat < 6 →
      exec .decode s = .next { s with status := 0x04#8, sticky := s.sticky ||| 0x00000010#32 }) ∧
    (s.rxOvf = false → 6 ≤ s.rxlen.toNat →
      ∃ t, exec .decode s = .next t ∧
        t.rxPresent = true ∧
        t.rxSd = s.rxbuf.read 0 ∧ t.rxNode = s.rxbuf.read 1 ∧ t.rxObj = s.rxbuf.read 3 ∧
        t.rxDlen.toNat = s.rxlen.toNat - 6 ∧
        t.ckRecv.toNat =
          (s.rxbuf.read (s.rxlen.toNat - 2)).toNat * 256 + (s.rxbuf.read (s.rxlen.toNat - 1)).toNat ∧
        t.ckCalc.toNat = sumBytes s.rxbuf 0 (s.rxlen.toNat - 2) % 65536 ∧
        t.rxValid = decide (t.ckCalc = t.ckRecv) ∧
        (t.ckCalc = t.ckRecv → t.status = 0x00#8 ∧ t.sticky = s.sticky) ∧
        (t.ckCalc ≠ t.ckRecv → t.status = 0x01#8 ∧ t.sticky = s.sticky ||| 0x00000002#32) ∧
        t.result = s.result ∧ SameTx s t ∧ SameParam s t ∧ SameRx s t ∧ SameHost s t)

/-- R151 with R150: RDB in every legal state. -/
def Obligations.RdbReadsOneDataByte : Prop :=
  ∀ (s : State) (k : BitVec 8), Inv s →
    (s.rxPresent = false →
      exec (.rdb k) s = .next { s with status := 0x06#8, sticky := s.sticky ||| 0x00000040#32 }) ∧
    (s.rxPresent = true → s.rxDlen.toNat < k.toNat + 1 →
      exec (.rdb k) s = .next { s with status := 0x07#8, sticky := s.sticky ||| 0x00000080#32 }) ∧
    (s.rxPresent = true → k.toNat + 1 ≤ s.rxDlen.toNat →
      exec (.rdb k) s = .next { s with
        result := BitVec.ofNat 32 (dataByte s k.toNat).toNat, status := 0x00#8 })

/-- R152 with R150: RDW in every legal state; the word is big-endian and unsigned. -/
def Obligations.RdwReadsABigEndianWord : Prop :=
  ∀ (s : State) (k : BitVec 8), Inv s →
    (s.rxPresent = false →
      exec (.rdw k) s = .next { s with status := 0x06#8, sticky := s.sticky ||| 0x00000040#32 }) ∧
    (s.rxPresent = true → s.rxDlen.toNat < k.toNat + 2 →
      exec (.rdw k) s = .next { s with status := 0x07#8, sticky := s.sticky ||| 0x00000080#32 }) ∧
    (s.rxPresent = true → k.toNat + 2 ≤ s.rxDlen.toNat →
      exec (.rdw k) s = .next { s with
        result := BitVec.ofNat 32 ((dataByte s k.toNat).toNat * 2 ^ 8 + (dataByte s (k.toNat + 1)).toNat),
        status := 0x00#8 })

/-- R153 with R150: RDF in every legal state; the first byte is bits 31:24 and every pattern is returned unchanged. -/
def Obligations.RdfReadsABigEndianPattern : Prop :=
  ∀ (s : State) (k : BitVec 8), Inv s →
    (s.rxPresent = false →
      exec (.rdf k) s = .next { s with status := 0x06#8, sticky := s.sticky ||| 0x00000040#32 }) ∧
    (s.rxPresent = true → s.rxDlen.toNat < k.toNat + 4 →
      exec (.rdf k) s = .next { s with status := 0x07#8, sticky := s.sticky ||| 0x00000080#32 }) ∧
    (s.rxPresent = true → k.toNat + 4 ≤ s.rxDlen.toNat →
      exec (.rdf k) s = .next { s with
        result := BitVec.ofNat 32 ((dataByte s k.toNat).toNat * 2 ^ 24 + (dataByte s (k.toNat + 1)).toNat * 2 ^ 16 +
          (dataByte s (k.toNat + 2)).toNat * 2 ^ 8 + (dataByte s (k.toNat + 3)).toNat),
        status := 0x00#8 })

/-- R154: RDS in every legal state: RESULT is the number of data bytes before the first NUL among all but the last. -/
def Obligations.RdsMeasuresTheString : Prop :=
  ∀ s : State, Inv s →
    (s.rxPresent = false →
      exec .rds s = .next { s with status := 0x06#8, sticky := s.sticky ||| 0x00000040#32 }) ∧
    (s.rxPresent = true →
      ∃ n : Nat, exec .rds s = .next { s with result := BitVec.ofNat 32 n, status := 0x00#8 } ∧
        n ≤ s.rxDlen.toNat - 1 ∧
        (∀ i, i < n → dataByte s i ≠ 0x00#8) ∧
        (n < s.rxDlen.toNat - 1 → dataByte s n = 0x00#8))

/-- The model's own stop (note 4; R51: no command computes such an index): where RXLEN or RX_DLEN points at or above
RX_CAP, which no legal state allows, RXPUSH, DECODE and the field reads stop with the fault of that name. -/
def Obligations.IndexOutsideRxbufStops : Prop :=
  (∀ (s : State) (b : BitVec 8), s.rxCap < s.rxlen.toNat → exec (.rxpush b) s = .fault .rxIndexOutside) ∧
  (∀ s : State, s.rxOvf = false → 6 ≤ s.rxlen.toNat → s.rxCap < s.rxlen.toNat →
    exec .decode s = .fault .rxIndexOutside) ∧
  (∀ (s : State) (k : BitVec 8), s.rxPresent = true →
    (k.toNat + 1 ≤ s.rxDlen.toNat → s.rxCap < 4 + k.toNat + 1 → exec (.rdb k) s = .fault .rxIndexOutside) ∧
    (k.toNat + 2 ≤ s.rxDlen.toNat → s.rxCap < 4 + k.toNat + 2 → exec (.rdw k) s = .fault .rxIndexOutside) ∧
    (k.toNat + 4 ≤ s.rxDlen.toNat → s.rxCap < 4 + k.toNat + 4 → exec (.rdf k) s = .fault .rxIndexOutside)) ∧
  (∀ s : State, s.rxPresent = true → s.rxCap < 4 + (s.rxDlen.toNat - 1) → exec .rds s = .fault .rxIndexOutside)

/-! ### Rules over all commands -/

/-- Who writes what (R21 to R38, "Written by"): every part of the state is left alone by every command but those its rule
names. -/
def Obligations.OnlyItsOwnCommandsWriteARegister : Prop :=
  ∀ (i : Instr) (s t : State), exec i s = .next t →
    (t.result ≠ s.result → isFieldRead i = true ∧ t.status = 0x00#8) ∧
    (¬ SameTx s t → ∃ obj len, (i = .encq obj len ∨ i = .encc obj len) ∧ t.status = 0x00#8) ∧
    (¬ SameBytes s.param t.param → ∃ b, i = .ppush b) ∧
    (t.plen ≠ s.plen → i = .pclr ∨ ∃ b, i = .ppush b) ∧
    (¬ SameBytes s.rxbuf t.rxbuf → ∃ b, i = .rxpush b) ∧
    (t.rxlen ≠ s.rxlen → i = .rxclr ∨ ∃ b, i = .rxpush b) ∧
    (t.rxOvf = true → s.rxOvf = false → ∃ b, i = .rxpush b) ∧
    (t.rxOvf = false → s.rxOvf = true → i = .rxclr) ∧
    (¬ SameDecoded s t → i = .decode ∨ i = .rxclr ∨ ∃ b, i = .rxpush b) ∧
    SameHost s t

/-- R59, R182, R186: a command word that ends with an error, other than the two that `complete` reports, has changed only
STATUS and STICKY. -/
def Obligations.ErrorsArePrecise : Prop :=
  ∀ (w : CommandWord) (s t : State), hostCommand w s = .next t →
    t.status ≠ 0x00#8 → t.status ≠ 0x01#8 → (t.status = 0x05#8 → ∀ b, decode w ≠ .ok (.rxpush b)) →
    t = { s with status := t.status, sticky := s.sticky ||| 1#32 <<< t.status.toNat }

/-- R181, R197: the codes each command can end with; none ends with DEVICE_ERROR. -/
def Obligations.EachCommandReportsItsOwnCodes : Prop :=
  ∀ (i : Instr) (s t : State), exec i s = .next t →
    match i with
    | .nop => t.status = 0x00#8
    | .encq _ _ => t.status = 0x00#8 ∨ t.status = 0x02#8
    | .encc _ _ => t.status = 0x00#8 ∨ t.status = 0x02#8
    | .pclr => t.status = 0x00#8
    | .ppush _ => t.status = 0x00#8 ∨ t.status = 0x03#8
    | .rxclr => t.status = 0x00#8
    | .rxpush _ => t.status = 0x00#8 ∨ t.status = 0x05#8
    | .decode => t.status = 0x00#8 ∨ t.status = 0x01#8 ∨ t.status = 0x04#8 ∨ t.status = 0x05#8
    | .rdb _ => t.status = 0x00#8 ∨ t.status = 0x06#8 ∨ t.status = 0x07#8
    | .rdw _ => t.status = 0x00#8 ∨ t.status = 0x06#8 ∨ t.status = 0x07#8
    | .rdf _ => t.status = 0x00#8 ∨ t.status = 0x06#8 ∨ t.status = 0x07#8
    | .rds => t.status = 0x00#8 ∨ t.status = 0x06#8

/-- R184: from a legal state every sequence of command words runs to its end, and STICKY bit c (1 to 8) is then set exactly
when it was set before or some word of the sequence ended with code c; after a reset, exactly when some word did. -/
def Obligations.StickyRecordsEveryCode : Prop :=
  ∀ (s : State) (ws : List CommandWord), Inv s →
    (∃ t codes, runWords ws s = some (t, codes) ∧ codes.length = ws.length ∧
      ∀ c : Nat, 1 ≤ c → c ≤ 8 →
        (t.sticky.getLsbD c = true ↔ s.sticky.getLsbD c = true ∨ BitVec.ofNat 8 c ∈ codes)) ∧
    (∃ t codes, runWords ws (hostReset s) = some (t, codes) ∧ codes.length = ws.length ∧
      ∀ c : Nat, 1 ≤ c → c ≤ 8 → (t.sticky.getLsbD c = true ↔ BitVec.ofNat 8 c ∈ codes))

/-- R45, R66, R172: a command's result depends on its word and the TCE's registers alone: other host actions to come and
another reply given change nothing of it, and no command changes what runs next. The two fields replaced are the model's
own (notes 2, 3). -/
def Obligations.CommandsIgnoreTheHostSide : Prop :=
  ∀ (i : Instr) (s : State) (acts : List HostAction) (reply : Option (BitVec 32)),
    (∀ t, exec i s = .next t →
      exec i { s with pending := acts, readReply := reply } = .next { t with pending := acts, readReply := reply }) ∧
    (∀ t, exec i s = .next t → t.pending = s.pending)

/-- R32, R150, R207: no field read looks at the checksum's verdict: another RX_VALID, CK_RECV or CK_CALC changes neither
its status nor its value. -/
def Obligations.FieldReadsIgnoreTheChecksum : Prop :=
  ∀ (i : Instr) (s t : State) (v : Bool) (a b : BitVec 16), isFieldRead i = true → exec i s = .next t →
    exec i { s with rxValid := v, ckRecv := a, ckCalc := b } =
      .next { t with rxValid := v, ckRecv := a, ckCalc := b }

/-- R60: PCLR, RXCLR, NOP, ENCQ, DECODE and the field reads are idempotent. -/
def Obligations.RepeatingACommandChangesNothing : Prop :=
  ∀ (i : Instr) (s t : State), Inv s → isIdempotent i = true → exec i s = .next t → exec i t = .next t

/-- R208: after an RXPUSH or RXCLR, and whatever commands but DECODE follow it, every field read ends with ERR_NOFRAME. -/
def Obligations.WithdrawnTelegramStaysWithdrawn : Prop :=
  ∀ (s t : State) (first rd : Instr) (is : List Instr),
    (first = .rxclr ∨ ∃ b, first = .rxpush b) → .decode ∉ is → isFieldRead rd = true →
    execAll (first :: is) s = some t →
    exec rd t = .next { t with status := 0x06#8, sticky := t.sticky ||| 0x00000040#32 }

/-! ### Invariants -/

/-- The legal states take in the state after reset, of every build (R6, R39, R44, R200, R201). -/
def Obligations.ResetIsLegal : Prop :=
  Inv State.reset ∧ (∀ cap : Nat, 22 ≤ cap → cap ≤ 128 → Inv (State.powerOn cap)) ∧
  (∀ s : State, Inv s → Inv (hostReset s))

/-- R39, R44: every step, whatever the host does, leads from a legal state to a legal state. That a step takes the host's
next action from `pending` is the model's choice (note 2). -/
def Obligations.EveryStepKeepsTheStateLegal : Prop :=
  ∀ s t : State, Inv s → step s = .next t → Inv t

/-- R180: no error stops, halts or wedges the TCE: in a legal state every step completes. That a step
takes the host's next action from `pending`, and is idle with none, is the model's choice (note 2). -/
def Obligations.NoLegalStateStops : Prop :=
  ∀ s : State, Inv s → Continues s

/-- R31, D16: while a telegram is decoded its registers describe the bytes in RXBUF; it holds after reset and every step
from a legal state keeps it. -/
def Obligations.DecodedRegistersDescribeRxbuf : Prop :=
  (∀ cap : Nat, DescribesRxbuf (State.powerOn cap)) ∧
  (∀ s t : State, Inv s → DescribesRxbuf s → step s = .next t → DescribesRxbuf t)

/-- R106, first sentence: every frame that stands in TXBUF verifies; it holds after reset and every step from a legal state
keeps it. -/
def Obligations.TransmitFrameAlwaysVerifies : Prop :=
  (∀ cap : Nat, TxFrameVerifies (State.powerOn cap)) ∧
  (∀ s t : State, Inv s → TxFrameVerifies s → step s = .next t → TxFrameVerifies t)

/-- R6: nothing changes the build: RX_CAP is the same after every step. That it stands in the state is the model's
(note 1). -/
def Obligations.BuildNeverChanges : Prop :=
  ∀ s t : State, step s = .next t → t.rxCap = s.rxCap

/-! ### The checksum and the telegram -/

/-- R100, R101: the checksum is the sum of the bytes modulo 65536, and its two bytes are its high and low ones. -/
def Obligations.ChecksumIsTheSum : Prop :=
  ∀ (m : Memory) (i j : Nat), i ≤ j →
    (m.csum i j).toNat = sumBytes m i (j - i) % 65536 ∧
    (ckHi (m.csum i j)).toNat = sumBytes m i (j - i) % 65536 / 256 ∧
    (ckLo (m.csum i j)).toNat = sumBytes m i (j - i) % 256

/-- R54: MemRead is big-endian. -/
def Obligations.MemReadIsBigEndian : Prop :=
  ∀ (m : Memory) (i : Nat),
    m.read1 i = m.read i ∧
    m.read2 i = (m.read i).setWidth 16 <<< 8 ||| (m.read (i + 1)).setWidth 16 ∧
    m.read4 i = (m.read i).setWidth 32 <<< 24 ||| (m.read (i + 1)).setWidth 32 <<< 16 |||
      (m.read (i + 2)).setWidth 32 <<< 8 ||| (m.read (i + 3)).setWidth 32

/-- R104: no checksum the TCE computes reaches the modulus: at most 0x11EE outbound, at most 0x7D82 inbound. -/
def Obligations.ChecksumNeverWraps : Prop :=
  (∀ (tt : BitVec 2) (obj : BitVec 8) (len : BitVec 5) (ps : List Byte), ps.length ≤ 16 →
    byteSum (frameBody tt obj len ps) ≤ 4590) ∧
  (∀ s : State, Inv s → sumBytes s.rxbuf 0 (s.rxlen.toNat - 2) ≤ 32130)

/-- R105: the checksum does not see the order of the bytes, 0x00 bytes, or errors that cancel. -/
def Obligations.ChecksumBlindSpots : Prop :=
  (∀ as bs : List Byte, as.Perm bs → csum as = csum bs) ∧
  (∀ as bs : List Byte, csum (as ++ 0x00#8 :: bs) = csum (as ++ bs)) ∧
  (∀ (as bs cs : List Byte) (x y x' y' : Byte), x.toNat + y.toNat = x'.toNat + y'.toNat →
    csum (as ++ x :: bs ++ y :: cs) = csum (as ++ x' :: bs ++ y' :: cs))

/-- R105: a single-bit error anywhere in a received frame that verifies, in its bytes or in its checksum, is always
detected: DECODE then completes with CKSUM_BAD and RX_VALID = 0. -/
def Obligations.SingleBitErrorsAreDetected : Prop :=
  ∀ (s t : State) (i j : Nat), Inv s → 6 ≤ s.rxlen.toNat → exec .decode s = .next t → t.status = 0x00#8 →
    i < s.rxlen.toNat → j < 8 →
    ∃ u, exec .decode { s with rxbuf := s.rxbuf.write i (s.rxbuf.read i ^^^ 1#8 <<< j) } = .next u ∧
      u.status = 0x01#8 ∧ u.rxPresent = true ∧ u.rxValid = false

/-- R78, R110: the start-delimiter of a legal length, and that its bits give the type and the length back. -/
def Obligations.StartDelimiterRoundTrips : Prop :=
  ∀ (tt : BitVec 2) (len : BitVec 5), 1 ≤ len.toNat → len.toNat ≤ 16 →
    (makeSD tt len).toNat = tt.toNat * 64 + 0x30 + (len.toNat - 1) ∧
    (makeSD tt len).extractLsb' 6 2 = tt ∧ (makeSD tt len).extractLsb' 4 2 = 0b11#2 ∧
    ((makeSD tt len).extractLsb' 0 4).toNat + 1 = len.toNat

/-- R106: a frame the encoder built, looped back through the receiver: one of 6 or more bytes decodes with OK and
RX_VALID = 1 and with the first param byte as its object-id; a 5-byte one is ERR_SHORT. -/
def Obligations.LoopedBackFramesVerify : Prop :=
  ∀ (s t : State) (obj : BitVec 8) (len : BitVec 5), Inv s → 1 ≤ len.toNat → len.toNat ≤ 16 →
    (exec (.encc obj len) s = .next t → 1 ≤ s.plen.val →
      ∃ u, execAll (.rxclr :: (t.txFrame.map Instr.rxpush ++ [.decode])) t = some u ∧
        u.status = 0x00#8 ∧ u.rxPresent = true ∧ u.rxValid = true ∧ u.rxSd = t.txbuf.read 0 ∧
        u.rxObj = s.param.read 0 ∧ u.rxDlen.toNat = s.plen.val - 1) ∧
    (exec (.encq obj len) s = .next t ∨ (exec (.encc obj len) s = .next t ∧ s.plen.val = 0) →
      ∃ u, execAll (.rxclr :: (t.txFrame.map Instr.rxpush ++ [.decode])) t = some u ∧ u.status = 0x04#8)

/-- R88 (RXLOAD) with R131, R132: RXCLR and one RXPUSH per byte leave the bytes in RXBUF in arrival order. -/
def Obligations.RxloadStoresTheReply : Prop :=
  ∀ (s : State) (bs : List Byte), Inv s → bs.length ≤ s.rxCap →
    ∃ t, execAll (.rxclr :: bs.map Instr.rxpush) s = some t ∧
      t.rxlen.toNat = bs.length ∧ t.rxbuf.readBytes 0 bs.length = bs ∧
      (∀ i, bs.length ≤ i → t.rxbuf.read i = s.rxbuf.read i) ∧
      t.rxOvf = false ∧ NoTelegram t ∧ t.status = 0x00#8 ∧ t.sticky = s.sticky ∧ t.result = s.result ∧
      SameTx s t ∧ SameParam s t ∧ SameHost s t

/-- R88 (CONTROL) with R112 to R114: the expansion of an accepted CONTROL line with a legal length builds the telegram of
its param bytes, whatever was staged before. -/
def Obligations.ControlLineBuildsItsTelegram : Prop :=
  ∀ (s : State) (obj len : Nat) (ps : List Nat), (AsmLine.control obj len ps).wf s.rxCap = true → 1 ≤ len → len ≤ 16 →
    ∃ is t, assemble s.rxCap (.control obj len ps) = some is ∧ execAll is s = some t ∧ t.status = 0x00#8 ∧
      t.txFrame = outFrame 0b11#2 (BitVec.ofNat 8 obj) (BitVec.ofNat 5 len) (ps.map (BitVec.ofNat 8)) ∧
      t.txlen.val = 5 + ps.length

/-- R76: the assembler accepts exactly the lines whose operands fit their fields, and a command line stands for the one
command it names. -/
def Obligations.AssemblerChecksOperands : Prop :=
  (∀ cap obj len, assemble cap (.encq obj len) =
    if obj < 256 ∧ len < 32 then some [.encq (BitVec.ofNat 8 obj) (BitVec.ofNat 5 len)] else none) ∧
  (∀ cap obj len, assemble cap (.encc obj len) =
    if obj < 256 ∧ len < 32 then some [.encc (BitVec.ofNat 8 obj) (BitVec.ofNat 5 len)] else none) ∧
  (∀ cap b, assemble cap (.ppush b) = if b < 256 then some [.ppush (BitVec.ofNat 8 b)] else none) ∧
  (∀ cap b, assemble cap (.rxpush b) = if b < 256 then some [.rxpush (BitVec.ofNat 8 b)] else none) ∧
  (∀ cap k, assemble cap (.rdb k) = if k < 256 then some [.rdb (BitVec.ofNat 8 k)] else none) ∧
  (∀ cap k, assemble cap (.rdw k) = if k < 256 then some [.rdw (BitVec.ofNat 8 k)] else none) ∧
  (∀ cap k, assemble cap (.rdf k) = if k < 256 then some [.rdf (BitVec.ofNat 8 k)] else none) ∧
  (∀ cap, assemble cap .nop = some [.nop] ∧ assemble cap .pclr = some [.pclr] ∧
    assemble cap .rxclr = some [.rxclr] ∧ assemble cap .decode = some [.decode] ∧ assemble cap .rds = some [.rds])

/-- R88: what each pseudo-instruction expands to, where the assembler accepts the line. -/
def Obligations.PseudoInstructionsExpand : Prop :=
  ∀ cap : Nat,
    (∀ obj len, assemble cap (.query obj len) = assemble cap (.encq obj len)) ∧
    (∀ obj len (ps : List Nat), (AsmLine.control obj len ps).wf cap = true →
      assemble cap (.control obj len ps) =
        some (.pclr :: (ps.map (fun p => .ppush (BitVec.ofNat 8 p)) ++
          [.encc (BitVec.ofNat 8 obj) (BitVec.ofNat 5 len)]))) ∧
    (∀ obj len (ps : List Nat), 16 < ps.length → assemble cap (.control obj len ps) = none) ∧
    (∀ obj len raw, raw < 65536 →
      assemble cap (.setword obj len raw) = assemble cap (.control obj len [raw >>> 8, raw &&& 0xFF])) ∧
    (∀ obj len raw, 65536 ≤ raw → assemble cap (.setword obj len raw) = none) ∧
    (∀ bs : List Nat, (AsmLine.rxload bs).wf cap = true →
      assemble cap (.rxload bs) = some (.rxclr :: bs.map (fun b => .rxpush (BitVec.ofNat 8 b)))) ∧
    (∀ bs : List Nat, cap < bs.length → assemble cap (.rxload bs) = none) ∧
    (∀ bs : List Nat, assemble cap (.recv bs) = (assemble cap (.rxload bs)).map (fun is => is ++ [.decode]))

/-- R55, R89: a setpoint write carries the raw value in two param bytes, high byte first, to the object of its kind. -/
def Obligations.SetpointBytesAreBigEndian : Prop :=
  ∀ (s : State) (raw : BitVec 16) (len : BitVec 5), 1 ≤ len.toNat → len.toNat ≤ 16 →
    (∃ t, execAll ((ControlOp.setVoltage raw).commands len) s = some t ∧ t.status = 0x00#8 ∧ t.txlen.val = 7 ∧
      t.txbuf.read 2 = 0x32#8 ∧ (t.txbuf.read 3).toNat = raw.toNat / 256 ∧ (t.txbuf.read 4).toNat = raw.toNat % 256) ∧
    (∃ t, execAll ((ControlOp.setCurrent raw).commands len) s = some t ∧ t.status = 0x00#8 ∧ t.txlen.val = 7 ∧
      t.txbuf.read 2 = 0x33#8 ∧ (t.txbuf.read 3).toNat = raw.toNat / 256 ∧ (t.txbuf.read 4).toNat = raw.toNat % 256)

/-- R68, R69: the register reads by which the host takes the frame it sends return the frame's bytes in wire order. That the
value is recorded in `readReply` is the model's choice (note 3). -/
def Obligations.SendReadsReturnTheFrame : Prop :=
  ∀ (s : State) (i : Nat), i < s.txlen.val →
    ∃ r : BitVec 8, (sendReads s.txlen.val)[i]? = some (.read r) ∧
      perform (.read r) s = .next { s with readReply := some ((s.txFrame.getD i 0#8).setWidth 32) }

/-- R83: the table gives distinct object-ids, and the query of each object it gives a length for completes with that
object-id in the frame. -/
def Obligations.ObjectQueriesEncode : Prop :=
  (∀ o o' : ObjectId, o.code = o'.code → o = o') ∧
  (∀ (o : ObjectId) (i : Instr) (s : State), o.query = some i →
    ∃ t, exec i s = .next t ∧ t.status = 0x00#8 ∧ t.txbuf.read 2 = o.code ∧ t.txlen.val = 5)

/-- R68 through the step: when the host's next actions are those it takes on a reply of 6 to RX_CAP bytes, that many steps
run them all, in order, and leave the reply decoded. That the host's actions stand in `pending`, from which each step
takes one, is the model's choice (note 2). -/
def Obligations.ReceiveExchangeDecodesTheReply : Prop :=
  ∀ (s : State) (reply : List Byte) (rest : List HostAction), Inv s → 6 ≤ reply.length → reply.length ≤ s.rxCap →
    s.pending = receiveActions reply ++ rest →
    ∃ t : State, Host.Core.run Sys2Proof.core (reply.length + 2) s = .next t ∧
      t.pending = rest ∧ t.rxPresent = true ∧ t.rxlen.toNat = reply.length ∧
      t.rxbuf.readBytes 0 reply.length = reply ∧
      t.rxSd = reply.getD 0 0#8 ∧ t.rxObj = reply.getD 3 0#8 ∧ t.rxDlen.toNat = reply.length - 6 ∧
      t.ckCalc = csum (reply.take (reply.length - 2)) ∧
      t.rxValid = decide (t.ckCalc = reply.getD (reply.length - 2) 0#8 ++ reply.getD (reply.length - 1) 0#8)

end
end

