-- ==== Sys2Proof/Laws/Memory.lean ====
section
/-! SUPPORT. The laws of byte memory: reading after writing, the canonical form, and that equal contents are equal data. -/

namespace Sys2Proof.Machine

@[simp] theorem Memory.read_nil (i : Nat) : Memory.read [] i = unlistedByte := rfl

theorem Memory.place_before {c : Host.Cell} {m : Memory} {i : Nat} {b : Byte} (h : i < c.1) :
    Memory.place (c :: m) i b = (i, b) :: c :: m := if_pos h

theorem Memory.place_at {c : Host.Cell} {m : Memory} {i : Nat} {b : Byte} (h : i = c.1) :
    Memory.place (c :: m) i b = (i, b) :: m := by
  subst h
  exact (if_neg (lt_irrefl _)).trans (if_pos rfl)

theorem Memory.place_after {c : Host.Cell} {m : Memory} {i : Nat} {b : Byte} (h : ¬ i < c.1) (h' : ¬ i = c.1) :
    Memory.place (c :: m) i b = c :: Memory.place m i b := (if_neg h).trans (if_neg h')

theorem Memory.read_remove_same (m : Memory) (i : Nat) : (m.remove i).read i = unlistedByte := by
  induction m with
  | nil => rfl
  | cons c m ih =>
    by_cases h : c.1 = i
    · simpa [Memory.remove, h] using ih
    · simpa [Memory.remove, Memory.read, h] using ih

theorem Memory.read_remove_other (m : Memory) {i j : Nat} (h : j ≠ i) : (m.remove i).read j = m.read j := by
  induction m with
  | nil => rfl
  | cons c m ih =>
    by_cases hc : c.1 = i
    · have : c.1 ≠ j := fun e => h (e ▸ hc)
      simpa [Memory.remove, Memory.read, hc, Ne.symm h] using ih
    · by_cases hj : c.1 = j
      · simp [Memory.remove, Memory.read, hj, h]
      · simpa [Memory.remove, Memory.read, hc, hj] using ih

theorem Memory.read_place_same (m : Memory) (i : Nat) (b : Byte) : (m.place i b).read i = b := by
  induction m with
  | nil => simp [Memory.place, Memory.read]
  | cons c m ih =>
    by_cases h1 : i < c.1
    · simp [Memory.place, Memory.read, h1]
    · by_cases h2 : i = c.1
      · simp [Memory.place, Memory.read, h2]
      · simpa [Memory.place, Memory.read, h1, h2, Ne.symm h2] using ih

theorem Memory.read_place_other (m : Memory) {i j : Nat} (b : Byte) (h : j ≠ i) :
    (m.place i b).read j = m.read j := by
  induction m with
  | nil => simp [Memory.place, Memory.read, Ne.symm h]
  | cons c m ih =>
    by_cases h1 : i < c.1
    · simp [Memory.place, Memory.read, h1, Ne.symm h]
    · by_cases h2 : i = c.1
      · simp [Memory.place, Memory.read, ← h2, Ne.symm h]
      · by_cases h3 : c.1 = j
        · rw [Memory.place_after h1 h2]
          simp [Memory.read, h3]
        · rw [Memory.place_after h1 h2]
          simpa [Memory.read, h3] using ih

/-- A write is what is read back at its index. -/
@[simp] theorem Memory.read_write_same (m : Memory) (i : Nat) (b : Byte) : (m.write i b).read i = b := by
  by_cases h : b = unlistedByte
  · simp [Memory.write, h, Memory.read_remove_same]
  · simp [Memory.write, h, Memory.read_place_same]

/-- A write leaves every other index alone. -/
theorem Memory.read_write_other (m : Memory) {i j : Nat} (b : Byte) (h : j ≠ i) :
    (m.write i b).read j = m.read j := by
  by_cases hb : b = unlistedByte
  · simp [Memory.write, hb, Memory.read_remove_other _ h]
  · simp [Memory.write, hb, Memory.read_place_other _ _ h]

theorem Memory.read_write (m : Memory) (i j : Nat) (b : Byte) :
    (m.write i b).read j = if j = i then b else m.read j := by
  by_cases h : j = i
  · simp [h]
  · simp [h, Memory.read_write_other _ _ h]

theorem Memory.mem_of_mem_remove {m : Memory} {i : Nat} {c : Host.Cell} (h : c ∈ m.remove i) : c ∈ m := by
  induction m with
  | nil => exact h
  | cons d m ih =>
    by_cases hd : d.1 = i
    · simp only [Memory.remove, hd, if_true] at h
      exact List.mem_cons_of_mem _ (ih h)
    · simp only [Memory.remove, hd, if_false, List.mem_cons] at h
      rcases h with rfl | h
      · exact List.mem_cons_self
      · exact List.mem_cons_of_mem _ (ih h)

theorem Memory.mem_of_mem_place {m : Memory} {i : Nat} {b : Byte} {c : Host.Cell} (h : c ∈ m.place i b) :
    c = (i, b) ∨ c ∈ m := by
  induction m with
  | nil => exact .inl (by simpa [Memory.place] using h)
  | cons d m ih =>
    by_cases h1 : i < d.1
    · simpa [Memory.place, h1] using h
    · by_cases h2 : i = d.1
      · rw [Memory.place_at h2, List.mem_cons] at h
        rcases h with rfl | h
        · exact .inl rfl
        · exact .inr (List.mem_cons_of_mem _ h)
      · rw [Memory.place_after h1 h2, List.mem_cons] at h
        rcases h with rfl | h
        · exact .inr List.mem_cons_self
        · exact (ih h).imp id (List.mem_cons_of_mem _)

theorem Memory.remove_wf {size : Nat} {m : Memory} (i : Nat) (h : m.wf size) : (m.remove i).wf size := by
  refine ⟨?_, fun c hc => h.2 c (Memory.mem_of_mem_remove hc)⟩
  have hp := h.1
  clear h
  induction m with
  | nil => exact hp
  | cons d m ih =>
    rw [List.pairwise_cons] at hp
    by_cases hd : d.1 = i
    · simpa [Memory.remove, hd] using ih hp.2
    · simp only [Memory.remove, hd, if_false, List.pairwise_cons]
      exact ⟨fun c hc => hp.1 c (Memory.mem_of_mem_remove hc), ih hp.2⟩

theorem Memory.place_wf {size : Nat} {m : Memory} {i : Nat} {b : Byte} (hi : i < size) (hb : b ≠ unlistedByte)
    (h : m.wf size) : (m.place i b).wf size := by
  refine ⟨?_, fun c hc => ?_⟩
  · have hp := h.1
    clear h
    induction m with
    | nil => simp [Memory.place]
    | cons d m ih =>
      rw [List.pairwise_cons] at hp
      by_cases h1 : i < d.1
      · simp only [Memory.place, h1, if_true, List.pairwise_cons, List.mem_cons]
        refine ⟨?_, hp⟩
        rintro c (rfl | hc)
        · exact h1
        · exact lt_trans h1 (hp.1 c hc)
      · by_cases h2 : i = d.1
        · rw [Memory.place_at h2, List.pairwise_cons]
          exact ⟨fun c hc => h2 ▸ hp.1 c hc, hp.2⟩
        · rw [Memory.place_after h1 h2, List.pairwise_cons]
          refine ⟨fun c hc => ?_, ih hp.2⟩
          rcases Memory.mem_of_mem_place hc with rfl | hc
          · show d.1 < i
            omega
          · exact hp.1 c hc
  · rcases Memory.mem_of_mem_place hc with rfl | hc
    · exact ⟨hi, hb⟩
    · exact h.2 c hc

/-- A write inside the buffer keeps the canonical form. -/
theorem Memory.write_wf {size : Nat} {m : Memory} {i : Nat} (b : Byte) (hi : i < size) (h : m.wf size) :
    (m.write i b).wf size := by
  by_cases hb : b = unlistedByte
  · simpa only [Memory.write, hb, if_true] using Memory.remove_wf i h
  · simpa only [Memory.write, hb, if_false] using Memory.place_wf hi hb h

/-- A sequence of writes inside the buffer keeps the canonical form. -/
theorem Memory.writeBytes_wf {size : Nat} {m : Memory} {i : Nat} {bs : List Byte} (hi : i + bs.length ≤ size)
    (h : m.wf size) : (m.writeBytes i bs).wf size := by
  induction bs generalizing m i with
  | nil => exact h
  | cons b bs ih =>
    simp only [List.length_cons] at hi
    exact ih (by omega) (Memory.write_wf b (by omega) h)

/-- The empty memory, which is every buffer's at reset, has the canonical form. -/
theorem Memory.nil_wf (size : Nat) : Memory.wf size [] := ⟨List.Pairwise.nil, by simp⟩

/-- No byte outside the buffer is listed, so one reads there as unlisted. -/
theorem Memory.read_outside {size : Nat} {m : Memory} (h : m.wf size) {i : Nat} (hi : size ≤ i) :
    m.read i = unlistedByte := by
  have hb := h.2
  clear h
  induction m with
  | nil => rfl
  | cons c m ih =>
    have hc := (hb c List.mem_cons_self).1
    have : c.1 ≠ i := by omega
    simpa [Memory.read, this] using ih (fun d hd => hb d (List.mem_cons_of_mem _ hd))

/-- What a sequence of writes leaves: the bytes written, and every other index as before. -/
theorem Memory.read_writeBytes (m : Memory) (i j : Nat) (bs : List Byte) :
    (m.writeBytes i bs).read j =
      if i ≤ j ∧ j < i + bs.length then bs.getD (j - i) unlistedByte else m.read j := by
  induction bs generalizing m i with
  | nil => simp [Memory.writeBytes]
  | cons b bs ih =>
    simp only [Memory.writeBytes, ih, List.length_cons, Memory.read_write]
    by_cases hj : j = i
    · subst hj
      simp
    · by_cases h : i + 1 ≤ j ∧ j < i + 1 + bs.length
      · have h' : i ≤ j ∧ j < i + (bs.length + 1) := by omega
        have e : j - i = (j - (i + 1)) + 1 := by omega
        simp [h, h', e]
      · have h' : ¬ (i ≤ j ∧ j < i + (bs.length + 1)) := by omega
        rw [if_neg h, if_neg h', if_neg hj]

@[simp] theorem Memory.readBytes_length (m : Memory) (i n : Nat) : (m.readBytes i n).length = n := by
  induction n generalizing i with
  | zero => rfl
  | succ n ih => simp [Memory.readBytes, ih]

/-- The k-th of the bytes read is the byte at index i + k. -/
theorem Memory.readBytes_getD (m : Memory) (i n k : Nat) (h : k < n) (d : Byte) :
    (m.readBytes i n).getD k d = m.read (i + k) := by
  induction n generalizing i k with
  | zero => omega
  | succ n ih =>
    cases k with
    | zero => simp [Memory.readBytes]
    | succ k =>
      have := ih (i + 1) k (by omega)
      simpa [Memory.readBytes, Nat.add_assoc, Nat.add_comm 1 k] using this

/-- Bytes read from two memories that agree on the range are the same. -/
theorem Memory.readBytes_congr {m m' : Memory} {i n : Nat} (h : ∀ j, i ≤ j → j < i + n → m.read j = m'.read j) :
    m.readBytes i n = m'.readBytes i n := by
  induction n generalizing i with
  | zero => rfl
  | succ n ih =>
    simp only [Memory.readBytes, h i le_rfl (by omega)]
    rw [ih (fun j h1 h2 => h j (by omega) (by omega))]

/-- A range read in two parts. -/
theorem Memory.readBytes_add (m : Memory) (i n k : Nat) :
    m.readBytes i (n + k) = m.readBytes i n ++ m.readBytes (i + n) k := by
  induction n generalizing i with
  | zero => simp [Memory.readBytes]
  | succ n ih =>
    have e : n + 1 + k = (n + k) + 1 := by omega
    have e' : i + 1 + n = i + (n + 1) := by omega
    simp only [e, Memory.readBytes, ih, List.cons_append, e']

/-- Bytes just written are read back. -/
theorem Memory.readBytes_writeBytes (m : Memory) (i : Nat) (bs : List Byte) :
    (m.writeBytes i bs).readBytes i bs.length = bs := by
  apply List.ext_getElem (by simp)
  intro k h1 h2
  have := Memory.readBytes_getD (m.writeBytes i bs) i bs.length k h2 unlistedByte
  rw [List.getD_eq_getElem _ _ h1] at this
  rw [this, Memory.read_writeBytes]
  simp [h2]

/-- Equal contents in the canonical form are equal data. -/
theorem Memory.ext_of_wf {size : Nat} {m m' : Memory} (h : m.wf size) (h' : m'.wf size)
    (e : ∀ i, m.read i = m'.read i) : m = m' := by
  have read_head : ∀ (c : Host.Cell) (l : Memory), Memory.read (c :: l) c.1 = c.2 := by
    intro c l; simp [Memory.read]
  have read_below : ∀ (l : Memory) (i : Nat), (∀ c ∈ l, i < c.1) → Memory.read l i = unlistedByte := by
    intro l i hl
    induction l with
    | nil => rfl
    | cons c l ih =>
      have hc := hl c List.mem_cons_self
      have : c.1 ≠ i := by omega
      simpa [Memory.read, this] using ih (fun d hd => hl d (List.mem_cons_of_mem _ hd))
  induction m generalizing m' with
  | nil =>
    cases m' with
    | nil => rfl
    | cons c l =>
      have := e c.1
      rw [read_head, Memory.read_nil] at this
      exact absurd this.symm (h'.2 c List.mem_cons_self).2
  | cons c l ih =>
    cases m' with
    | nil =>
      have := e c.1
      rw [read_head, Memory.read_nil] at this
      exact absurd this (h.2 c List.mem_cons_self).2
    | cons c' l' =>
      obtain ⟨hp, hb⟩ := h
      obtain ⟨hp', hb'⟩ := h'
      rw [List.pairwise_cons] at hp hp'
      have h1 : c.1 = c'.1 := by
        rcases lt_trichotomy c.1 c'.1 with lt | eq | gt
        · have := e c.1
          rw [read_head, read_below (c' :: l') c.1 (by
            intro d hd
            rcases List.mem_cons.mp hd with rfl | hd
            · exact lt
            · exact lt_trans lt (hp'.1 d hd))] at this
          exact absurd this (hb c List.mem_cons_self).2
        · exact eq
        · have := e c'.1
          rw [read_head, read_below (c :: l) c'.1 (by
            intro d hd
            rcases List.mem_cons.mp hd with rfl | hd
            · exact gt
            · exact lt_trans gt (hp.1 d hd))] at this
          exact absurd this.symm (hb' c' List.mem_cons_self).2
      have h2 : c.2 = c'.2 := by
        have := e c.1
        rw [read_head, h1, read_head] at this
        exact this
      have hc : c = c' := Prod.ext h1 h2
      subst hc
      congr 1
      refine ih ⟨hp.2, fun d hd => hb d (List.mem_cons_of_mem _ hd)⟩
        ⟨hp'.2, fun d hd => hb' d (List.mem_cons_of_mem _ hd)⟩ (fun i => ?_)
      by_cases hi : c.1 = i
      · subst hi
        rw [read_below l c.1 hp.1, read_below l' c.1 hp'.1]
      · have := e i
        simpa [Memory.read, hi] using this

end Sys2Proof.Machine
end

