-- ==== Sys2Proof/Laws/Checksum.lean ====
section
/-! SUPPORT. The small lemmas of the checksum functions. -/

namespace Sys2Proof.Machine

@[simp] theorem byteSum_nil : byteSum [] = 0 := rfl

@[simp] theorem byteSum_cons (b : Byte) (bs : List Byte) : byteSum (b :: bs) = b.toNat + byteSum bs := rfl

theorem byteSum_append (as bs : List Byte) : byteSum (as ++ bs) = byteSum as + byteSum bs := by
  induction as with
  | nil => simp
  | cons a as ih => simp [ih, Nat.add_assoc]

theorem byteSum_le (bs : List Byte) : byteSum bs ≤ 255 * bs.length := by
  induction bs with
  | nil => simp
  | cons b bs ih =>
    have := b.isLt
    simp only [byteSum_cons, List.length_cons]
    omega

@[simp] theorem csum_toNat (bs : List Byte) : (csum bs).toNat = byteSum bs % 65536 := by
  simp [csum]

/-- The two bytes of a checksum, high first, are the checksum. -/
theorem ckHi_append_ckLo (ck : Half) : (ckHi ck ++ ckLo ck : Half) = ck := by
  have h := BitVec.extractLsb'_append_extractLsb'_eq_extractLsb' (x := ck) (start₂ := 8) (start₁ := 0)
    (len₁ := 8) (len₂ := 8) rfl
  simpa [ckHi, ckLo] using h

/-- Reading two bytes takes the first as the high one. -/
theorem Memory.read2_eq (m : Memory) (i : Nat) : m.read2 i = m.read i ++ m.read (i + 1) := rfl

/-- The verification depends only on the first n bytes of a frame of n ≥ 2 bytes. -/
theorem Memory.frameValid_congr {m m' : Memory} {n : Nat} (hn : 2 ≤ n) (h : ∀ i, i < n → m.read i = m'.read i) :
    m.frameValid n = m'.frameValid n := by
  have h1 : m.readBytes 0 (n - 2) = m'.readBytes 0 (n - 2) :=
    Memory.readBytes_congr (fun j _ hj => h j (by omega))
  simp only [Memory.frameValid, Memory.calcChecksum, Memory.recvChecksum, Memory.csum, Memory.read2,
    Nat.sub_zero, h1, h (n - 2) (by omega), h (n - 2 + 1) (by omega)]

end Sys2Proof.Machine
end

