-- ==== Sys2Proof/Laws/Encoding.lean ====
section
/-! SUPPORT. The fields of a command word laid out from its four lanes, and when two laid-out words agree. -/

namespace Sys2Proof

/-- The bits of a laid-out word, lane by lane. -/
theorem layoutWord_getLsbD (op obj k low : BitVec 8) (i : Nat) :
    (layoutWord op obj k low).getLsbD i =
      if i < 8 then low.getLsbD i
      else if i < 16 then k.getLsbD (i - 8)
      else if i < 24 then obj.getLsbD (i - 16)
      else op.getLsbD (i - 24) := by
  show ((op ++ obj ++ k ++ low : BitVec (8 + 8 + 8 + 8))).getLsbD i = _
  rw [BitVec.getLsbD_append, BitVec.getLsbD_append, BitVec.getLsbD_append]
  have h1 : (i - 8 < 8) = (i < 16 ∨ i < 8) := propext (by omega)
  have h2 : (i - 8 - 8 < 8) = (i < 24) := propext (by omega)
  by_cases a : i < 8
  · simp [a]
  · by_cases b : i < 16
    · simp [a, b, h1]
    · have e1 : i - 8 - 8 = i - 16 := by omega
      have e2 : i - 16 - 8 = i - 24 := by omega
      have e3 : (i - 16 < 8) = (i < 24) := propext (by omega)
      simp only [a, b, h1, e1, e2, e3, if_false, or_self]

@[simp] theorem opField_layoutWord (op obj k low : BitVec 8) : opField (layoutWord op obj k low) = op := by
  apply BitVec.eq_of_getLsbD_eq
  intro i hi
  have e : 24 + i - 24 = i := by omega
  have a : ¬ 24 + i < 8 := by omega
  have b : ¬ 24 + i < 16 := by omega
  have c : ¬ 24 + i < 24 := by omega
  simp [opField, layoutWord_getLsbD, hi, a, b, e]

@[simp] theorem objField_layoutWord (op obj k low : BitVec 8) : objField (layoutWord op obj k low) = obj := by
  apply BitVec.eq_of_getLsbD_eq
  intro i hi
  have e : 16 + i - 16 = i := by omega
  have a : ¬ 16 + i < 8 := by omega
  have c : 16 + i < 24 := by omega
  simp [objField, layoutWord_getLsbD, hi, a, c, e]

@[simp] theorem offsetField_layoutWord (op obj k low : BitVec 8) :
    offsetField (layoutWord op obj k low) = k := by
  apply BitVec.eq_of_getLsbD_eq
  intro i hi
  have e : 8 + i - 8 = i := by omega
  have c : 8 + i < 16 := by omega
  simp [offsetField, layoutWord_getLsbD, hi, c, e]

/-- The low five bits of the lane that holds an L field. -/
theorem lenLane_getLsbD (len : BitVec 5) {i : Nat} (h : i < 5) : (0#3 ++ len : BitVec 8).getLsbD i = len.getLsbD i := by
  show (0#3 ++ len : BitVec (3 + 5)).getLsbD i = _
  rw [BitVec.getLsbD_append, if_pos h]

@[simp] theorem lenField_layoutWord (op obj k : BitVec 8) (len : BitVec 5) :
    lenField (layoutWord op obj k (0#3 ++ len)) = len := by
  apply BitVec.eq_of_getLsbD_eq
  intro i hi
  have c : i < 8 := by omega
  rw [lenField, BitVec.getLsbD_extractLsb', Nat.zero_add, layoutWord_getLsbD, if_pos c, lenLane_getLsbD len hi]
  simp [hi]

/-- The low lane of a laid-out word, bits 7:0. -/
theorem low_layoutWord (op obj k low : BitVec 8) : (layoutWord op obj k low).extractLsb' 0 8 = low := by
  apply BitVec.eq_of_getLsbD_eq
  intro i hi
  simp [layoutWord_getLsbD, hi]

/-- Every word is laid out from its own lanes. -/
theorem layoutWord_lanes (w : CommandWord) :
    layoutWord (opField w) (objField w) (offsetField w) (w.extractLsb' 0 8) = w := by
  apply BitVec.eq_of_getLsbD_eq
  intro i hi
  rw [layoutWord_getLsbD]
  by_cases a : i < 8
  · simp [a]
  · by_cases b : i < 16
    · have e : 8 + (i - 8) = i := by omega
      have c : i - 8 < 8 := by omega
      simp [a, b, offsetField, e, c]
    · by_cases d : i < 24
      · have e : 16 + (i - 16) = i := by omega
        have c : i - 16 < 8 := by omega
        simp [a, b, d, objField, e, c]
      · have e : 24 + (i - 24) = i := by omega
        have c : i - 24 < 8 := by omega
        simp [a, b, d, opField, e, c]

/-- Masking acts lane by lane. -/
theorem layoutWord_and (a b c d a' b' c' d' : BitVec 8) :
    layoutWord a b c d &&& layoutWord a' b' c' d' = layoutWord (a &&& a') (b &&& b') (c &&& c') (d &&& d') := by
  apply BitVec.eq_of_getLsbD_eq
  intro i hi
  simp only [BitVec.getLsbD_and, layoutWord_getLsbD]
  split_ifs <;> rfl

/-- Two laid-out words are equal exactly when their lanes are. -/
theorem layoutWord_inj {a b c d a' b' c' d' : BitVec 8} :
    layoutWord a b c d = layoutWord a' b' c' d' ↔ a = a' ∧ b = b' ∧ c = c' ∧ d = d' := by
  constructor
  · intro h
    refine ⟨?_, ?_, ?_, ?_⟩
    · simpa using congrArg opField h
    · simpa using congrArg objField h
    · simpa using congrArg offsetField h
    · simpa [low_layoutWord] using congrArg (BitVec.extractLsb' 0 8) h
  · rintro ⟨rfl, rfl, rfl, rfl⟩
    rfl

/-- A row selects a word exactly when its mask and pattern agree with the word on each lane. -/
theorem OpcodeRow.selects_layoutWord (m1 m2 m3 m4 p1 p2 p3 p4 a b c d : BitVec 8) :
    OpcodeRow.selects ⟨layoutWord m1 m2 m3 m4, layoutWord p1 p2 p3 p4⟩ (layoutWord a b c d) = true ↔
      a &&& m1 = p1 ∧ b &&& m2 = p2 ∧ c &&& m3 = p3 ∧ d &&& m4 = p4 := by
  simp [OpcodeRow.selects, layoutWord_and, layoutWord_inj]

end Sys2Proof
end

