-- ==== Sys2Proof/Laws/State.lean ====
section
/-! SUPPORT. One lemma per field per update of the state: each update of Machine/Ops.lean writes the fields its rule names
and leaves every other alone. -/

namespace Sys2Proof.Machine

/-! ### raised: `raise E` writes STATUS and STICKY (R182). -/

@[simp] theorem State.raised_status (e : StatusCode) (s : State) : (s.raised e).status = e.code := rfl
@[simp] theorem State.raised_sticky (e : StatusCode) (s : State) : (s.raised e).sticky = s.sticky ||| e.bit := rfl
@[simp] theorem State.raised_result (e : StatusCode) (s : State) : (s.raised e).result = s.result := rfl
@[simp] theorem State.raised_txbuf (e : StatusCode) (s : State) : (s.raised e).txbuf = s.txbuf := rfl
@[simp] theorem State.raised_txlen (e : StatusCode) (s : State) : (s.raised e).txlen = s.txlen := rfl
@[simp] theorem State.raised_param (e : StatusCode) (s : State) : (s.raised e).param = s.param := rfl
@[simp] theorem State.raised_plen (e : StatusCode) (s : State) : (s.raised e).plen = s.plen := rfl
@[simp] theorem State.raised_rxbuf (e : StatusCode) (s : State) : (s.raised e).rxbuf = s.rxbuf := rfl
@[simp] theorem State.raised_rxlen (e : StatusCode) (s : State) : (s.raised e).rxlen = s.rxlen := rfl
@[simp] theorem State.raised_rxOvf (e : StatusCode) (s : State) : (s.raised e).rxOvf = s.rxOvf := rfl
@[simp] theorem State.raised_rxPresent (e : StatusCode) (s : State) : (s.raised e).rxPresent = s.rxPresent := rfl
@[simp] theorem State.raised_rxValid (e : StatusCode) (s : State) : (s.raised e).rxValid = s.rxValid := rfl
@[simp] theorem State.raised_rxSd (e : StatusCode) (s : State) : (s.raised e).rxSd = s.rxSd := rfl
@[simp] theorem State.raised_rxNode (e : StatusCode) (s : State) : (s.raised e).rxNode = s.rxNode := rfl
@[simp] theorem State.raised_rxObj (e : StatusCode) (s : State) : (s.raised e).rxObj = s.rxObj := rfl
@[simp] theorem State.raised_rxDlen (e : StatusCode) (s : State) : (s.raised e).rxDlen = s.rxDlen := rfl
@[simp] theorem State.raised_ckRecv (e : StatusCode) (s : State) : (s.raised e).ckRecv = s.ckRecv := rfl
@[simp] theorem State.raised_ckCalc (e : StatusCode) (s : State) : (s.raised e).ckCalc = s.ckCalc := rfl
@[simp] theorem State.raised_rxCap (e : StatusCode) (s : State) : (s.raised e).rxCap = s.rxCap := rfl
@[simp] theorem State.raised_pending (e : StatusCode) (s : State) : (s.raised e).pending = s.pending := rfl
@[simp] theorem State.raised_readReply (e : StatusCode) (s : State) : (s.raised e).readReply = s.readReply := rfl

/-! ### completed: `complete(E)` writes STATUS and STICKY (R183). -/

@[simp] theorem State.completed_status (e : StatusCode) (s : State) : (s.completed e).status = e.code := rfl
@[simp] theorem State.completed_sticky (e : StatusCode) (s : State) : (s.completed e).sticky = stickyAfter e s.sticky := rfl
@[simp] theorem State.completed_result (e : StatusCode) (s : State) : (s.completed e).result = s.result := rfl
@[simp] theorem State.completed_txbuf (e : StatusCode) (s : State) : (s.completed e).txbuf = s.txbuf := rfl
@[simp] theorem State.completed_txlen (e : StatusCode) (s : State) : (s.completed e).txlen = s.txlen := rfl
@[simp] theorem State.completed_param (e : StatusCode) (s : State) : (s.completed e).param = s.param := rfl
@[simp] theorem State.completed_plen (e : StatusCode) (s : State) : (s.completed e).plen = s.plen := rfl
@[simp] theorem State.completed_rxbuf (e : StatusCode) (s : State) : (s.completed e).rxbuf = s.rxbuf := rfl
@[simp] theorem State.completed_rxlen (e : StatusCode) (s : State) : (s.completed e).rxlen = s.rxlen := rfl
@[simp] theorem State.completed_rxOvf (e : StatusCode) (s : State) : (s.completed e).rxOvf = s.rxOvf := rfl
@[simp] theorem State.completed_rxPresent (e : StatusCode) (s : State) : (s.completed e).rxPresent = s.rxPresent := rfl
@[simp] theorem State.completed_rxValid (e : StatusCode) (s : State) : (s.completed e).rxValid = s.rxValid := rfl
@[simp] theorem State.completed_rxSd (e : StatusCode) (s : State) : (s.completed e).rxSd = s.rxSd := rfl
@[simp] theorem State.completed_rxNode (e : StatusCode) (s : State) : (s.completed e).rxNode = s.rxNode := rfl
@[simp] theorem State.completed_rxObj (e : StatusCode) (s : State) : (s.completed e).rxObj = s.rxObj := rfl
@[simp] theorem State.completed_rxDlen (e : StatusCode) (s : State) : (s.completed e).rxDlen = s.rxDlen := rfl
@[simp] theorem State.completed_ckRecv (e : StatusCode) (s : State) : (s.completed e).ckRecv = s.ckRecv := rfl
@[simp] theorem State.completed_ckCalc (e : StatusCode) (s : State) : (s.completed e).ckCalc = s.ckCalc := rfl
@[simp] theorem State.completed_rxCap (e : StatusCode) (s : State) : (s.completed e).rxCap = s.rxCap := rfl
@[simp] theorem State.completed_pending (e : StatusCode) (s : State) : (s.completed e).pending = s.pending := rfl
@[simp] theorem State.completed_readReply (e : StatusCode) (s : State) : (s.completed e).readReply = s.readReply := rfl

/-! ### clearRx: ClearRx() (R130). -/

@[simp] theorem State.clearRx_status (s : State) : s.clearRx.status = s.status := rfl
@[simp] theorem State.clearRx_sticky (s : State) : s.clearRx.sticky = s.sticky := rfl
@[simp] theorem State.clearRx_result (s : State) : s.clearRx.result = s.result := rfl
@[simp] theorem State.clearRx_txbuf (s : State) : s.clearRx.txbuf = s.txbuf := rfl
@[simp] theorem State.clearRx_txlen (s : State) : s.clearRx.txlen = s.txlen := rfl
@[simp] theorem State.clearRx_param (s : State) : s.clearRx.param = s.param := rfl
@[simp] theorem State.clearRx_plen (s : State) : s.clearRx.plen = s.plen := rfl
@[simp] theorem State.clearRx_rxbuf (s : State) : s.clearRx.rxbuf = s.rxbuf := rfl
@[simp] theorem State.clearRx_rxlen (s : State) : s.clearRx.rxlen = s.rxlen := rfl
@[simp] theorem State.clearRx_rxOvf (s : State) : s.clearRx.rxOvf = s.rxOvf := rfl
@[simp] theorem State.clearRx_rxPresent (s : State) : s.clearRx.rxPresent = false := rfl
@[simp] theorem State.clearRx_rxValid (s : State) : s.clearRx.rxValid = false := rfl
@[simp] theorem State.clearRx_rxSd (s : State) : s.clearRx.rxSd = 0x00#8 := rfl
@[simp] theorem State.clearRx_rxNode (s : State) : s.clearRx.rxNode = 0x00#8 := rfl
@[simp] theorem State.clearRx_rxObj (s : State) : s.clearRx.rxObj = 0x00#8 := rfl
@[simp] theorem State.clearRx_rxDlen (s : State) : s.clearRx.rxDlen = 0#8 := rfl
@[simp] theorem State.clearRx_ckRecv (s : State) : s.clearRx.ckRecv = 0x0000#16 := rfl
@[simp] theorem State.clearRx_ckCalc (s : State) : s.clearRx.ckCalc = 0x0000#16 := rfl
@[simp] theorem State.clearRx_rxCap (s : State) : s.clearRx.rxCap = s.rxCap := rfl
@[simp] theorem State.clearRx_pending (s : State) : s.clearRx.pending = s.pending := rfl
@[simp] theorem State.clearRx_readReply (s : State) : s.clearRx.readReply = s.readReply := rfl

/-! ### setResult: RESULT. -/

@[simp] theorem State.setResult_status (v : BitVec 32) (s : State) : (s.setResult v).status = s.status := rfl
@[simp] theorem State.setResult_sticky (v : BitVec 32) (s : State) : (s.setResult v).sticky = s.sticky := rfl
@[simp] theorem State.setResult_result (v : BitVec 32) (s : State) : (s.setResult v).result = v := rfl
@[simp] theorem State.setResult_txbuf (v : BitVec 32) (s : State) : (s.setResult v).txbuf = s.txbuf := rfl
@[simp] theorem State.setResult_txlen (v : BitVec 32) (s : State) : (s.setResult v).txlen = s.txlen := rfl
@[simp] theorem State.setResult_param (v : BitVec 32) (s : State) : (s.setResult v).param = s.param := rfl
@[simp] theorem State.setResult_plen (v : BitVec 32) (s : State) : (s.setResult v).plen = s.plen := rfl
@[simp] theorem State.setResult_rxbuf (v : BitVec 32) (s : State) : (s.setResult v).rxbuf = s.rxbuf := rfl
@[simp] theorem State.setResult_rxlen (v : BitVec 32) (s : State) : (s.setResult v).rxlen = s.rxlen := rfl
@[simp] theorem State.setResult_rxOvf (v : BitVec 32) (s : State) : (s.setResult v).rxOvf = s.rxOvf := rfl
@[simp] theorem State.setResult_rxPresent (v : BitVec 32) (s : State) : (s.setResult v).rxPresent = s.rxPresent := rfl
@[simp] theorem State.setResult_rxValid (v : BitVec 32) (s : State) : (s.setResult v).rxValid = s.rxValid := rfl
@[simp] theorem State.setResult_rxSd (v : BitVec 32) (s : State) : (s.setResult v).rxSd = s.rxSd := rfl
@[simp] theorem State.setResult_rxNode (v : BitVec 32) (s : State) : (s.setResult v).rxNode = s.rxNode := rfl
@[simp] theorem State.setResult_rxObj (v : BitVec 32) (s : State) : (s.setResult v).rxObj = s.rxObj := rfl
@[simp] theorem State.setResult_rxDlen (v : BitVec 32) (s : State) : (s.setResult v).rxDlen = s.rxDlen := rfl
@[simp] theorem State.setResult_ckRecv (v : BitVec 32) (s : State) : (s.setResult v).ckRecv = s.ckRecv := rfl
@[simp] theorem State.setResult_ckCalc (v : BitVec 32) (s : State) : (s.setResult v).ckCalc = s.ckCalc := rfl
@[simp] theorem State.setResult_rxCap (v : BitVec 32) (s : State) : (s.setResult v).rxCap = s.rxCap := rfl
@[simp] theorem State.setResult_pending (v : BitVec 32) (s : State) : (s.setResult v).pending = s.pending := rfl
@[simp] theorem State.setResult_readReply (v : BitVec 32) (s : State) : (s.setResult v).readReply = s.readReply := rfl

/-! ### setTx: TXBUF and TXLEN. -/

@[simp] theorem State.setTx_status (buf : Memory) (len : Fin 22) (s : State) : (s.setTx buf len).status = s.status := rfl
@[simp] theorem State.setTx_sticky (buf : Memory) (len : Fin 22) (s : State) : (s.setTx buf len).sticky = s.sticky := rfl
@[simp] theorem State.setTx_result (buf : Memory) (len : Fin 22) (s : State) : (s.setTx buf len).result = s.result := rfl
@[simp] theorem State.setTx_txbuf (buf : Memory) (len : Fin 22) (s : State) : (s.setTx buf len).txbuf = buf := rfl
@[simp] theorem State.setTx_txlen (buf : Memory) (len : Fin 22) (s : State) : (s.setTx buf len).txlen = len := rfl
@[simp] theorem State.setTx_param (buf : Memory) (len : Fin 22) (s : State) : (s.setTx buf len).param = s.param := rfl
@[simp] theorem State.setTx_plen (buf : Memory) (len : Fin 22) (s : State) : (s.setTx buf len).plen = s.plen := rfl
@[simp] theorem State.setTx_rxbuf (buf : Memory) (len : Fin 22) (s : State) : (s.setTx buf len).rxbuf = s.rxbuf := rfl
@[simp] theorem State.setTx_rxlen (buf : Memory) (len : Fin 22) (s : State) : (s.setTx buf len).rxlen = s.rxlen := rfl
@[simp] theorem State.setTx_rxOvf (buf : Memory) (len : Fin 22) (s : State) : (s.setTx buf len).rxOvf = s.rxOvf := rfl
@[simp] theorem State.setTx_rxPresent (buf : Memory) (len : Fin 22) (s : State) : (s.setTx buf len).rxPresent = s.rxPresent := rfl
@[simp] theorem State.setTx_rxValid (buf : Memory) (len : Fin 22) (s : State) : (s.setTx buf len).rxValid = s.rxValid := rfl
@[simp] theorem State.setTx_rxSd (buf : Memory) (len : Fin 22) (s : State) : (s.setTx buf len).rxSd = s.rxSd := rfl
@[simp] theorem State.setTx_rxNode (buf : Memory) (len : Fin 22) (s : State) : (s.setTx buf len).rxNode = s.rxNode := rfl
@[simp] theorem State.setTx_rxObj (buf : Memory) (len : Fin 22) (s : State) : (s.setTx buf len).rxObj = s.rxObj := rfl
@[simp] theorem State.setTx_rxDlen (buf : Memory) (len : Fin 22) (s : State) : (s.setTx buf len).rxDlen = s.rxDlen := rfl
@[simp] theorem State.setTx_ckRecv (buf : Memory) (len : Fin 22) (s : State) : (s.setTx buf len).ckRecv = s.ckRecv := rfl
@[simp] theorem State.setTx_ckCalc (buf : Memory) (len : Fin 22) (s : State) : (s.setTx buf len).ckCalc = s.ckCalc := rfl
@[simp] theorem State.setTx_rxCap (buf : Memory) (len : Fin 22) (s : State) : (s.setTx buf len).rxCap = s.rxCap := rfl
@[simp] theorem State.setTx_pending (buf : Memory) (len : Fin 22) (s : State) : (s.setTx buf len).pending = s.pending := rfl
@[simp] theorem State.setTx_readReply (buf : Memory) (len : Fin 22) (s : State) : (s.setTx buf len).readReply = s.readReply := rfl

/-! ### setPlen: PLEN. -/

@[simp] theorem State.setPlen_status (n : Fin 17) (s : State) : (s.setPlen n).status = s.status := rfl
@[simp] theorem State.setPlen_sticky (n : Fin 17) (s : State) : (s.setPlen n).sticky = s.sticky := rfl
@[simp] theorem State.setPlen_result (n : Fin 17) (s : State) : (s.setPlen n).result = s.result := rfl
@[simp] theorem State.setPlen_txbuf (n : Fin 17) (s : State) : (s.setPlen n).txbuf = s.txbuf := rfl
@[simp] theorem State.setPlen_txlen (n : Fin 17) (s : State) : (s.setPlen n).txlen = s.txlen := rfl
@[simp] theorem State.setPlen_param (n : Fin 17) (s : State) : (s.setPlen n).param = s.param := rfl
@[simp] theorem State.setPlen_plen (n : Fin 17) (s : State) : (s.setPlen n).plen = n := rfl
@[simp] theorem State.setPlen_rxbuf (n : Fin 17) (s : State) : (s.setPlen n).rxbuf = s.rxbuf := rfl
@[simp] theorem State.setPlen_rxlen (n : Fin 17) (s : State) : (s.setPlen n).rxlen = s.rxlen := rfl
@[simp] theorem State.setPlen_rxOvf (n : Fin 17) (s : State) : (s.setPlen n).rxOvf = s.rxOvf := rfl
@[simp] theorem State.setPlen_rxPresent (n : Fin 17) (s : State) : (s.setPlen n).rxPresent = s.rxPresent := rfl
@[simp] theorem State.setPlen_rxValid (n : Fin 17) (s : State) : (s.setPlen n).rxValid = s.rxValid := rfl
@[simp] theorem State.setPlen_rxSd (n : Fin 17) (s : State) : (s.setPlen n).rxSd = s.rxSd := rfl
@[simp] theorem State.setPlen_rxNode (n : Fin 17) (s : State) : (s.setPlen n).rxNode = s.rxNode := rfl
@[simp] theorem State.setPlen_rxObj (n : Fin 17) (s : State) : (s.setPlen n).rxObj = s.rxObj := rfl
@[simp] theorem State.setPlen_rxDlen (n : Fin 17) (s : State) : (s.setPlen n).rxDlen = s.rxDlen := rfl
@[simp] theorem State.setPlen_ckRecv (n : Fin 17) (s : State) : (s.setPlen n).ckRecv = s.ckRecv := rfl
@[simp] theorem State.setPlen_ckCalc (n : Fin 17) (s : State) : (s.setPlen n).ckCalc = s.ckCalc := rfl
@[simp] theorem State.setPlen_rxCap (n : Fin 17) (s : State) : (s.setPlen n).rxCap = s.rxCap := rfl
@[simp] theorem State.setPlen_pending (n : Fin 17) (s : State) : (s.setPlen n).pending = s.pending := rfl
@[simp] theorem State.setPlen_readReply (n : Fin 17) (s : State) : (s.setPlen n).readReply = s.readReply := rfl

/-! ### setParam: PARAM and PLEN. -/

@[simp] theorem State.setParam_status (buf : Memory) (n : Fin 17) (s : State) : (s.setParam buf n).status = s.status := rfl
@[simp] theorem State.setParam_sticky (buf : Memory) (n : Fin 17) (s : State) : (s.setParam buf n).sticky = s.sticky := rfl
@[simp] theorem State.setParam_result (buf : Memory) (n : Fin 17) (s : State) : (s.setParam buf n).result = s.result := rfl
@[simp] theorem State.setParam_txbuf (buf : Memory) (n : Fin 17) (s : State) : (s.setParam buf n).txbuf = s.txbuf := rfl
@[simp] theorem State.setParam_txlen (buf : Memory) (n : Fin 17) (s : State) : (s.setParam buf n).txlen = s.txlen := rfl
@[simp] theorem State.setParam_param (buf : Memory) (n : Fin 17) (s : State) : (s.setParam buf n).param = buf := rfl
@[simp] theorem State.setParam_plen (buf : Memory) (n : Fin 17) (s : State) : (s.setParam buf n).plen = n := rfl
@[simp] theorem State.setParam_rxbuf (buf : Memory) (n : Fin 17) (s : State) : (s.setParam buf n).rxbuf = s.rxbuf := rfl
@[simp] theorem State.setParam_rxlen (buf : Memory) (n : Fin 17) (s : State) : (s.setParam buf n).rxlen = s.rxlen := rfl
@[simp] theorem State.setParam_rxOvf (buf : Memory) (n : Fin 17) (s : State) : (s.setParam buf n).rxOvf = s.rxOvf := rfl
@[simp] theorem State.setParam_rxPresent (buf : Memory) (n : Fin 17) (s : State) : (s.setParam buf n).rxPresent = s.rxPresent := rfl
@[simp] theorem State.setParam_rxValid (buf : Memory) (n : Fin 17) (s : State) : (s.setParam buf n).rxValid = s.rxValid := rfl
@[simp] theorem State.setParam_rxSd (buf : Memory) (n : Fin 17) (s : State) : (s.setParam buf n).rxSd = s.rxSd := rfl
@[simp] theorem State.setParam_rxNode (buf : Memory) (n : Fin 17) (s : State) : (s.setParam buf n).rxNode = s.rxNode := rfl
@[simp] theorem State.setParam_rxObj (buf : Memory) (n : Fin 17) (s : State) : (s.setParam buf n).rxObj = s.rxObj := rfl
@[simp] theorem State.setParam_rxDlen (buf : Memory) (n : Fin 17) (s : State) : (s.setParam buf n).rxDlen = s.rxDlen := rfl
@[simp] theorem State.setParam_ckRecv (buf : Memory) (n : Fin 17) (s : State) : (s.setParam buf n).ckRecv = s.ckRecv := rfl
@[simp] theorem State.setParam_ckCalc (buf : Memory) (n : Fin 17) (s : State) : (s.setParam buf n).ckCalc = s.ckCalc := rfl
@[simp] theorem State.setParam_rxCap (buf : Memory) (n : Fin 17) (s : State) : (s.setParam buf n).rxCap = s.rxCap := rfl
@[simp] theorem State.setParam_pending (buf : Memory) (n : Fin 17) (s : State) : (s.setParam buf n).pending = s.pending := rfl
@[simp] theorem State.setParam_readReply (buf : Memory) (n : Fin 17) (s : State) : (s.setParam buf n).readReply = s.readReply := rfl

/-! ### emptyRx: RXLEN and RX_OVF. -/

@[simp] theorem State.emptyRx_status (s : State) : s.emptyRx.status = s.status := rfl
@[simp] theorem State.emptyRx_sticky (s : State) : s.emptyRx.sticky = s.sticky := rfl
@[simp] theorem State.emptyRx_result (s : State) : s.emptyRx.result = s.result := rfl
@[simp] theorem State.emptyRx_txbuf (s : State) : s.emptyRx.txbuf = s.txbuf := rfl
@[simp] theorem State.emptyRx_txlen (s : State) : s.emptyRx.txlen = s.txlen := rfl
@[simp] theorem State.emptyRx_param (s : State) : s.emptyRx.param = s.param := rfl
@[simp] theorem State.emptyRx_plen (s : State) : s.emptyRx.plen = s.plen := rfl
@[simp] theorem State.emptyRx_rxbuf (s : State) : s.emptyRx.rxbuf = s.rxbuf := rfl
@[simp] theorem State.emptyRx_rxlen (s : State) : s.emptyRx.rxlen = 0#8 := rfl
@[simp] theorem State.emptyRx_rxOvf (s : State) : s.emptyRx.rxOvf = false := rfl
@[simp] theorem State.emptyRx_rxPresent (s : State) : s.emptyRx.rxPresent = s.rxPresent := rfl
@[simp] theorem State.emptyRx_rxValid (s : State) : s.emptyRx.rxValid = s.rxValid := rfl
@[simp] theorem State.emptyRx_rxSd (s : State) : s.emptyRx.rxSd = s.rxSd := rfl
@[simp] theorem State.emptyRx_rxNode (s : State) : s.emptyRx.rxNode = s.rxNode := rfl
@[simp] theorem State.emptyRx_rxObj (s : State) : s.emptyRx.rxObj = s.rxObj := rfl
@[simp] theorem State.emptyRx_rxDlen (s : State) : s.emptyRx.rxDlen = s.rxDlen := rfl
@[simp] theorem State.emptyRx_ckRecv (s : State) : s.emptyRx.ckRecv = s.ckRecv := rfl
@[simp] theorem State.emptyRx_ckCalc (s : State) : s.emptyRx.ckCalc = s.ckCalc := rfl
@[simp] theorem State.emptyRx_rxCap (s : State) : s.emptyRx.rxCap = s.rxCap := rfl
@[simp] theorem State.emptyRx_pending (s : State) : s.emptyRx.pending = s.pending := rfl
@[simp] theorem State.emptyRx_readReply (s : State) : s.emptyRx.readReply = s.readReply := rfl

/-! ### setRx: RXBUF and RXLEN. -/

@[simp] theorem State.setRx_status (buf : Memory) (n : BitVec 8) (s : State) : (s.setRx buf n).status = s.status := rfl
@[simp] theorem State.setRx_sticky (buf : Memory) (n : BitVec 8) (s : State) : (s.setRx buf n).sticky = s.sticky := rfl
@[simp] theorem State.setRx_result (buf : Memory) (n : BitVec 8) (s : State) : (s.setRx buf n).result = s.result := rfl
@[simp] theorem State.setRx_txbuf (buf : Memory) (n : BitVec 8) (s : State) : (s.setRx buf n).txbuf = s.txbuf := rfl
@[simp] theorem State.setRx_txlen (buf : Memory) (n : BitVec 8) (s : State) : (s.setRx buf n).txlen = s.txlen := rfl
@[simp] theorem State.setRx_param (buf : Memory) (n : BitVec 8) (s : State) : (s.setRx buf n).param = s.param := rfl
@[simp] theorem State.setRx_plen (buf : Memory) (n : BitVec 8) (s : State) : (s.setRx buf n).plen = s.plen := rfl
@[simp] theorem State.setRx_rxbuf (buf : Memory) (n : BitVec 8) (s : State) : (s.setRx buf n).rxbuf = buf := rfl
@[simp] theorem State.setRx_rxlen (buf : Memory) (n : BitVec 8) (s : State) : (s.setRx buf n).rxlen = n := rfl
@[simp] theorem State.setRx_rxOvf (buf : Memory) (n : BitVec 8) (s : State) : (s.setRx buf n).rxOvf = s.rxOvf := rfl
@[simp] theorem State.setRx_rxPresent (buf : Memory) (n : BitVec 8) (s : State) : (s.setRx buf n).rxPresent = s.rxPresent := rfl
@[simp] theorem State.setRx_rxValid (buf : Memory) (n : BitVec 8) (s : State) : (s.setRx buf n).rxValid = s.rxValid := rfl
@[simp] theorem State.setRx_rxSd (buf : Memory) (n : BitVec 8) (s : State) : (s.setRx buf n).rxSd = s.rxSd := rfl
@[simp] theorem State.setRx_rxNode (buf : Memory) (n : BitVec 8) (s : State) : (s.setRx buf n).rxNode = s.rxNode := rfl
@[simp] theorem State.setRx_rxObj (buf : Memory) (n : BitVec 8) (s : State) : (s.setRx buf n).rxObj = s.rxObj := rfl
@[simp] theorem State.setRx_rxDlen (buf : Memory) (n : BitVec 8) (s : State) : (s.setRx buf n).rxDlen = s.rxDlen := rfl
@[simp] theorem State.setRx_ckRecv (buf : Memory) (n : BitVec 8) (s : State) : (s.setRx buf n).ckRecv = s.ckRecv := rfl
@[simp] theorem State.setRx_ckCalc (buf : Memory) (n : BitVec 8) (s : State) : (s.setRx buf n).ckCalc = s.ckCalc := rfl
@[simp] theorem State.setRx_rxCap (buf : Memory) (n : BitVec 8) (s : State) : (s.setRx buf n).rxCap = s.rxCap := rfl
@[simp] theorem State.setRx_pending (buf : Memory) (n : BitVec 8) (s : State) : (s.setRx buf n).pending = s.pending := rfl
@[simp] theorem State.setRx_readReply (buf : Memory) (n : BitVec 8) (s : State) : (s.setRx buf n).readReply = s.readReply := rfl

/-! ### markOvf: RX_OVF. -/

@[simp] theorem State.markOvf_status (s : State) : s.markOvf.status = s.status := rfl
@[simp] theorem State.markOvf_sticky (s : State) : s.markOvf.sticky = s.sticky := rfl
@[simp] theorem State.markOvf_result (s : State) : s.markOvf.result = s.result := rfl
@[simp] theorem State.markOvf_txbuf (s : State) : s.markOvf.txbuf = s.txbuf := rfl
@[simp] theorem State.markOvf_txlen (s : State) : s.markOvf.txlen = s.txlen := rfl
@[simp] theorem State.markOvf_param (s : State) : s.markOvf.param = s.param := rfl
@[simp] theorem State.markOvf_plen (s : State) : s.markOvf.plen = s.plen := rfl
@[simp] theorem State.markOvf_rxbuf (s : State) : s.markOvf.rxbuf = s.rxbuf := rfl
@[simp] theorem State.markOvf_rxlen (s : State) : s.markOvf.rxlen = s.rxlen := rfl
@[simp] theorem State.markOvf_rxOvf (s : State) : s.markOvf.rxOvf = true := rfl
@[simp] theorem State.markOvf_rxPresent (s : State) : s.markOvf.rxPresent = s.rxPresent := rfl
@[simp] theorem State.markOvf_rxValid (s : State) : s.markOvf.rxValid = s.rxValid := rfl
@[simp] theorem State.markOvf_rxSd (s : State) : s.markOvf.rxSd = s.rxSd := rfl
@[simp] theorem State.markOvf_rxNode (s : State) : s.markOvf.rxNode = s.rxNode := rfl
@[simp] theorem State.markOvf_rxObj (s : State) : s.markOvf.rxObj = s.rxObj := rfl
@[simp] theorem State.markOvf_rxDlen (s : State) : s.markOvf.rxDlen = s.rxDlen := rfl
@[simp] theorem State.markOvf_ckRecv (s : State) : s.markOvf.ckRecv = s.ckRecv := rfl
@[simp] theorem State.markOvf_ckCalc (s : State) : s.markOvf.ckCalc = s.ckCalc := rfl
@[simp] theorem State.markOvf_rxCap (s : State) : s.markOvf.rxCap = s.rxCap := rfl
@[simp] theorem State.markOvf_pending (s : State) : s.markOvf.pending = s.pending := rfl
@[simp] theorem State.markOvf_readReply (s : State) : s.markOvf.readReply = s.readReply := rfl

/-! ### setDecoded: The decoded telegram (R133). -/

@[simp] theorem State.setDecoded_status (n : Nat) (recv computed : Half) (s : State) : (s.setDecoded n recv computed).status = s.status := rfl
@[simp] theorem State.setDecoded_sticky (n : Nat) (recv computed : Half) (s : State) : (s.setDecoded n recv computed).sticky = s.sticky := rfl
@[simp] theorem State.setDecoded_result (n : Nat) (recv computed : Half) (s : State) : (s.setDecoded n recv computed).result = s.result := rfl
@[simp] theorem State.setDecoded_txbuf (n : Nat) (recv computed : Half) (s : State) : (s.setDecoded n recv computed).txbuf = s.txbuf := rfl
@[simp] theorem State.setDecoded_txlen (n : Nat) (recv computed : Half) (s : State) : (s.setDecoded n recv computed).txlen = s.txlen := rfl
@[simp] theorem State.setDecoded_param (n : Nat) (recv computed : Half) (s : State) : (s.setDecoded n recv computed).param = s.param := rfl
@[simp] theorem State.setDecoded_plen (n : Nat) (recv computed : Half) (s : State) : (s.setDecoded n recv computed).plen = s.plen := rfl
@[simp] theorem State.setDecoded_rxbuf (n : Nat) (recv computed : Half) (s : State) : (s.setDecoded n recv computed).rxbuf = s.rxbuf := rfl
@[simp] theorem State.setDecoded_rxlen (n : Nat) (recv computed : Half) (s : State) : (s.setDecoded n recv computed).rxlen = s.rxlen := rfl
@[simp] theorem State.setDecoded_rxOvf (n : Nat) (recv computed : Half) (s : State) : (s.setDecoded n recv computed).rxOvf = s.rxOvf := rfl
@[simp] theorem State.setDecoded_rxPresent (n : Nat) (recv computed : Half) (s : State) : (s.setDecoded n recv computed).rxPresent = true := rfl
@[simp] theorem State.setDecoded_rxValid (n : Nat) (recv computed : Half) (s : State) : (s.setDecoded n recv computed).rxValid = (computed == recv) := rfl
@[simp] theorem State.setDecoded_rxSd (n : Nat) (recv computed : Half) (s : State) : (s.setDecoded n recv computed).rxSd = s.rxbuf.read 0 := rfl
@[simp] theorem State.setDecoded_rxNode (n : Nat) (recv computed : Half) (s : State) : (s.setDecoded n recv computed).rxNode = s.rxbuf.read 1 := rfl
@[simp] theorem State.setDecoded_rxObj (n : Nat) (recv computed : Half) (s : State) : (s.setDecoded n recv computed).rxObj = s.rxbuf.read 3 := rfl
@[simp] theorem State.setDecoded_rxDlen (n : Nat) (recv computed : Half) (s : State) : (s.setDecoded n recv computed).rxDlen = BitVec.ofNat 8 (n - Config.minRx) := rfl
@[simp] theorem State.setDecoded_ckRecv (n : Nat) (recv computed : Half) (s : State) : (s.setDecoded n recv computed).ckRecv = recv := rfl
@[simp] theorem State.setDecoded_ckCalc (n : Nat) (recv computed : Half) (s : State) : (s.setDecoded n recv computed).ckCalc = computed := rfl
@[simp] theorem State.setDecoded_rxCap (n : Nat) (recv computed : Half) (s : State) : (s.setDecoded n recv computed).rxCap = s.rxCap := rfl
@[simp] theorem State.setDecoded_pending (n : Nat) (recv computed : Half) (s : State) : (s.setDecoded n recv computed).pending = s.pending := rfl
@[simp] theorem State.setDecoded_readReply (n : Nat) (recv computed : Half) (s : State) : (s.setDecoded n recv computed).readReply = s.readReply := rfl

/-! ### setPending: What the host has yet to do. -/

@[simp] theorem State.setPending_status (acts : List HostAction) (s : State) : (s.setPending acts).status = s.status := rfl
@[simp] theorem State.setPending_sticky (acts : List HostAction) (s : State) : (s.setPending acts).sticky = s.sticky := rfl
@[simp] theorem State.setPending_result (acts : List HostAction) (s : State) : (s.setPending acts).result = s.result := rfl
@[simp] theorem State.setPending_txbuf (acts : List HostAction) (s : State) : (s.setPending acts).txbuf = s.txbuf := rfl
@[simp] theorem State.setPending_txlen (acts : List HostAction) (s : State) : (s.setPending acts).txlen = s.txlen := rfl
@[simp] theorem State.setPending_param (acts : List HostAction) (s : State) : (s.setPending acts).param = s.param := rfl
@[simp] theorem State.setPending_plen (acts : List HostAction) (s : State) : (s.setPending acts).plen = s.plen := rfl
@[simp] theorem State.setPending_rxbuf (acts : List HostAction) (s : State) : (s.setPending acts).rxbuf = s.rxbuf := rfl
@[simp] theorem State.setPending_rxlen (acts : List HostAction) (s : State) : (s.setPending acts).rxlen = s.rxlen := rfl
@[simp] theorem State.setPending_rxOvf (acts : List HostAction) (s : State) : (s.setPending acts).rxOvf = s.rxOvf := rfl
@[simp] theorem State.setPending_rxPresent (acts : List HostAction) (s : State) : (s.setPending acts).rxPresent = s.rxPresent := rfl
@[simp] theorem State.setPending_rxValid (acts : List HostAction) (s : State) : (s.setPending acts).rxValid = s.rxValid := rfl
@[simp] theorem State.setPending_rxSd (acts : List HostAction) (s : State) : (s.setPending acts).rxSd = s.rxSd := rfl
@[simp] theorem State.setPending_rxNode (acts : List HostAction) (s : State) : (s.setPending acts).rxNode = s.rxNode := rfl
@[simp] theorem State.setPending_rxObj (acts : List HostAction) (s : State) : (s.setPending acts).rxObj = s.rxObj := rfl
@[simp] theorem State.setPending_rxDlen (acts : List HostAction) (s : State) : (s.setPending acts).rxDlen = s.rxDlen := rfl
@[simp] theorem State.setPending_ckRecv (acts : List HostAction) (s : State) : (s.setPending acts).ckRecv = s.ckRecv := rfl
@[simp] theorem State.setPending_ckCalc (acts : List HostAction) (s : State) : (s.setPending acts).ckCalc = s.ckCalc := rfl
@[simp] theorem State.setPending_rxCap (acts : List HostAction) (s : State) : (s.setPending acts).rxCap = s.rxCap := rfl
@[simp] theorem State.setPending_pending (acts : List HostAction) (s : State) : (s.setPending acts).pending = acts := rfl
@[simp] theorem State.setPending_readReply (acts : List HostAction) (s : State) : (s.setPending acts).readReply = s.readReply := rfl

/-! ### setReply: The value returned to the host. -/

@[simp] theorem State.setReply_status (v : BitVec 32) (s : State) : (s.setReply v).status = s.status := rfl
@[simp] theorem State.setReply_sticky (v : BitVec 32) (s : State) : (s.setReply v).sticky = s.sticky := rfl
@[simp] theorem State.setReply_result (v : BitVec 32) (s : State) : (s.setReply v).result = s.result := rfl
@[simp] theorem State.setReply_txbuf (v : BitVec 32) (s : State) : (s.setReply v).txbuf = s.txbuf := rfl
@[simp] theorem State.setReply_txlen (v : BitVec 32) (s : State) : (s.setReply v).txlen = s.txlen := rfl
@[simp] theorem State.setReply_param (v : BitVec 32) (s : State) : (s.setReply v).param = s.param := rfl
@[simp] theorem State.setReply_plen (v : BitVec 32) (s : State) : (s.setReply v).plen = s.plen := rfl
@[simp] theorem State.setReply_rxbuf (v : BitVec 32) (s : State) : (s.setReply v).rxbuf = s.rxbuf := rfl
@[simp] theorem State.setReply_rxlen (v : BitVec 32) (s : State) : (s.setReply v).rxlen = s.rxlen := rfl
@[simp] theorem State.setReply_rxOvf (v : BitVec 32) (s : State) : (s.setReply v).rxOvf = s.rxOvf := rfl
@[simp] theorem State.setReply_rxPresent (v : BitVec 32) (s : State) : (s.setReply v).rxPresent = s.rxPresent := rfl
@[simp] theorem State.setReply_rxValid (v : BitVec 32) (s : State) : (s.setReply v).rxValid = s.rxValid := rfl
@[simp] theorem State.setReply_rxSd (v : BitVec 32) (s : State) : (s.setReply v).rxSd = s.rxSd := rfl
@[simp] theorem State.setReply_rxNode (v : BitVec 32) (s : State) : (s.setReply v).rxNode = s.rxNode := rfl
@[simp] theorem State.setReply_rxObj (v : BitVec 32) (s : State) : (s.setReply v).rxObj = s.rxObj := rfl
@[simp] theorem State.setReply_rxDlen (v : BitVec 32) (s : State) : (s.setReply v).rxDlen = s.rxDlen := rfl
@[simp] theorem State.setReply_ckRecv (v : BitVec 32) (s : State) : (s.setReply v).ckRecv = s.ckRecv := rfl
@[simp] theorem State.setReply_ckCalc (v : BitVec 32) (s : State) : (s.setReply v).ckCalc = s.ckCalc := rfl
@[simp] theorem State.setReply_rxCap (v : BitVec 32) (s : State) : (s.setReply v).rxCap = s.rxCap := rfl
@[simp] theorem State.setReply_pending (v : BitVec 32) (s : State) : (s.setReply v).pending = s.pending := rfl
@[simp] theorem State.setReply_readReply (v : BitVec 32) (s : State) : (s.setReply v).readReply = some v := rfl

/-! ### hostReset (R200) and powerOn (R201) -/

@[simp] theorem hostReset_status (s : State) : (hostReset s).status = 0x00#8 := rfl
@[simp] theorem hostReset_sticky (s : State) : (hostReset s).sticky = 0x00000000#32 := rfl
@[simp] theorem hostReset_result (s : State) : (hostReset s).result = 0x00000000#32 := rfl
@[simp] theorem hostReset_txbuf (s : State) : (hostReset s).txbuf = [] := rfl
@[simp] theorem hostReset_txlen (s : State) : (hostReset s).txlen = 0 := rfl
@[simp] theorem hostReset_param (s : State) : (hostReset s).param = [] := rfl
@[simp] theorem hostReset_plen (s : State) : (hostReset s).plen = 0 := rfl
@[simp] theorem hostReset_rxbuf (s : State) : (hostReset s).rxbuf = [] := rfl
@[simp] theorem hostReset_rxlen (s : State) : (hostReset s).rxlen = 0#8 := rfl
@[simp] theorem hostReset_rxOvf (s : State) : (hostReset s).rxOvf = false := rfl
@[simp] theorem hostReset_rxPresent (s : State) : (hostReset s).rxPresent = false := rfl
@[simp] theorem hostReset_rxValid (s : State) : (hostReset s).rxValid = false := rfl
@[simp] theorem hostReset_rxSd (s : State) : (hostReset s).rxSd = 0x00#8 := rfl
@[simp] theorem hostReset_rxNode (s : State) : (hostReset s).rxNode = 0x00#8 := rfl
@[simp] theorem hostReset_rxObj (s : State) : (hostReset s).rxObj = 0x00#8 := rfl
@[simp] theorem hostReset_rxDlen (s : State) : (hostReset s).rxDlen = 0#8 := rfl
@[simp] theorem hostReset_ckRecv (s : State) : (hostReset s).ckRecv = 0x0000#16 := rfl
@[simp] theorem hostReset_ckCalc (s : State) : (hostReset s).ckCalc = 0x0000#16 := rfl
@[simp] theorem hostReset_rxCap (s : State) : (hostReset s).rxCap = s.rxCap := rfl
@[simp] theorem hostReset_pending (s : State) : (hostReset s).pending = s.pending := rfl
@[simp] theorem hostReset_readReply (s : State) : (hostReset s).readReply = s.readReply := rfl

@[simp] theorem State.powerOn_status (c : Nat) : (State.powerOn c).status = 0x00#8 := rfl
@[simp] theorem State.powerOn_sticky (c : Nat) : (State.powerOn c).sticky = 0x00000000#32 := rfl
@[simp] theorem State.powerOn_result (c : Nat) : (State.powerOn c).result = 0x00000000#32 := rfl
@[simp] theorem State.powerOn_txbuf (c : Nat) : (State.powerOn c).txbuf = [] := rfl
@[simp] theorem State.powerOn_txlen (c : Nat) : (State.powerOn c).txlen = 0 := rfl
@[simp] theorem State.powerOn_param (c : Nat) : (State.powerOn c).param = [] := rfl
@[simp] theorem State.powerOn_plen (c : Nat) : (State.powerOn c).plen = 0 := rfl
@[simp] theorem State.powerOn_rxbuf (c : Nat) : (State.powerOn c).rxbuf = [] := rfl
@[simp] theorem State.powerOn_rxlen (c : Nat) : (State.powerOn c).rxlen = 0#8 := rfl
@[simp] theorem State.powerOn_rxOvf (c : Nat) : (State.powerOn c).rxOvf = false := rfl
@[simp] theorem State.powerOn_rxPresent (c : Nat) : (State.powerOn c).rxPresent = false := rfl
@[simp] theorem State.powerOn_rxValid (c : Nat) : (State.powerOn c).rxValid = false := rfl
@[simp] theorem State.powerOn_rxSd (c : Nat) : (State.powerOn c).rxSd = 0x00#8 := rfl
@[simp] theorem State.powerOn_rxNode (c : Nat) : (State.powerOn c).rxNode = 0x00#8 := rfl
@[simp] theorem State.powerOn_rxObj (c : Nat) : (State.powerOn c).rxObj = 0x00#8 := rfl
@[simp] theorem State.powerOn_rxDlen (c : Nat) : (State.powerOn c).rxDlen = 0#8 := rfl
@[simp] theorem State.powerOn_ckRecv (c : Nat) : (State.powerOn c).ckRecv = 0x0000#16 := rfl
@[simp] theorem State.powerOn_ckCalc (c : Nat) : (State.powerOn c).ckCalc = 0x0000#16 := rfl
@[simp] theorem State.powerOn_rxCap (c : Nat) : (State.powerOn c).rxCap = c := rfl
@[simp] theorem State.powerOn_pending (c : Nat) : (State.powerOn c).pending = [] := rfl
@[simp] theorem State.powerOn_readReply (c : Nat) : (State.powerOn c).readReply = none := rfl

end Sys2Proof.Machine
end

