-- ==== Sys2Proof/Laws/Operands.lean ====
section
/-! SUPPORT. The small lemmas of the operand checks and of the outbound frame. -/

namespace Sys2Proof.Machine

/-! The numbers of R6. -/

@[simp] theorem txMax_eq : Config.txMax = 21 := rfl
@[simp] theorem elenMin_eq : Config.elenMin = 1 := rfl
@[simp] theorem elenMax_eq : Config.elenMax = 16 := rfl
@[simp] theorem paramMax_eq : Config.paramMax = 16 := rfl
@[simp] theorem dataOff_eq : Config.dataOff = 4 := rfl
@[simp] theorem minRx_eq : Config.minRx = 6 := rfl
@[simp] theorem rxCapMin_eq : Config.rxCapMin = 22 := rfl
@[simp] theorem rxCapMax_eq : Config.rxCapMax = 128 := rfl
@[simp] theorem node_eq : Config.node = 0x00#8 := rfl

/-- The expected-data-length check says 1..16. -/
theorem lenLegal_iff (len : BitVec 5) : lenLegal len = true ↔ 1 ≤ len.toNat ∧ len.toNat ≤ 16 := by
  unfold lenLegal
  rw [Bool.and_eq_true, decide_eq_true_iff, decide_eq_true_iff]

theorem lenLegal_eq_false_iff (len : BitVec 5) : lenLegal len = false ↔ len.toNat = 0 ∨ 17 ≤ len.toNat := by
  rw [← Bool.not_eq_true, lenLegal_iff]
  omega

@[simp] theorem frameBody_length (tt : BitVec 2) (obj : Byte) (len : BitVec 5) (ps : List Byte) :
    (frameBody tt obj len ps).length = ps.length + 3 := by
  simp [frameBody]

@[simp] theorem outFrame_length (tt : BitVec 2) (obj : Byte) (len : BitVec 5) (ps : List Byte) :
    (outFrame tt obj len ps).length = ps.length + 5 := by
  simp [outFrame]

/-- An encode writes 21 bytes (R58). -/
theorem txImage_length {frame : List Byte} (h : frame.length ≤ 21) : (txImage frame).length = 21 := by
  simp [txImage, Config.txMax]
  omega

/-- Inside the frame the bytes written are the frame's. -/
theorem txImage_getD_frame {frame : List Byte} {i : Nat} (h : i < frame.length) (d : Byte) :
    (txImage frame).getD i d = frame.getD i d := by
  simp [txImage, List.getElem?_append, h]

/-- Behind the frame the bytes written are 0x00. -/
theorem txImage_getD_past {frame : List Byte} {i : Nat} (h : frame.length ≤ i) :
    (txImage frame).getD i 0x00#8 = 0x00#8 := by
  rw [txImage, List.getD_append_right _ _ _ _ h]
  simp only [List.getD_eq_getElem?_getD, List.getElem?_replicate]
  split <;> rfl

@[simp] theorem stagedParams_length (s : State) : s.stagedParams.length = s.plen.val := by
  simp [State.stagedParams]

@[simp] theorem txFrame_length (s : State) : s.txFrame.length = s.txlen.val := by
  simp [State.txFrame]

theorem keptLength_eq (n : Nat) : keptLength n = n - 1 := by
  unfold keptLength
  split <;> omega

theorem stringLength_le (bs : List Byte) : stringLength bs ≤ bs.length :=
  (List.takeWhile_prefix _).length_le

end Sys2Proof.Machine
end

