-- ==== Sys2Proof/Laws/Ops.lean ====
section
/-! SUPPORT. One lemma per shared operation, saying once everything it can do. -/

namespace Sys2Proof.Machine

@[simp] theorem raise_eq (e : StatusCode) (s : State) : raise e s = .next (s.raised e) := rfl

@[simp] theorem complete_eq (e : StatusCode) (s : State) : complete e s = .next (s.completed e) := rfl

@[simp] theorem stickyAfter_ok (v : BitVec 32) : stickyAfter .ok v = v := rfl

theorem stickyAfter_error {e : StatusCode} (h : e ≠ .ok) (v : BitVec 32) : stickyAfter e v = v ||| e.bit :=
  if_neg h

@[simp] theorem next_inj {s t : State} : (Host.Outcome.next s : Result) = .next t ↔ s = t :=
  ⟨fun h => by cases h; rfl, fun h => by rw [h]⟩

/-- An encode completes with the frame in TXBUF exactly when L is legal, and reports ERR_LEN otherwise. -/
theorem encodeTelegram_cases (tt : BitVec 2) (obj : Byte) (len : BitVec 5) (ps : List Byte) (n : Fin 22) (s : State) :
    (lenLegal len = true ∧ encodeTelegram tt obj len ps n s =
        .next ((s.setTx (s.txbuf.writeBytes 0 (txImage (outFrame tt obj len ps))) n).completed .ok)) ∨
      (lenLegal len = false ∧ encodeTelegram tt obj len ps n s = .next (s.raised .errLen)) := by
  cases h : lenLegal len
  · exact .inr ⟨rfl, by simp [encodeTelegram, h]⟩
  · exact .inl ⟨rfl, by simp [encodeTelegram, h]⟩

/-- What DataCheck answers, in the order it checks (R150, R185). -/
theorem dataCheck_cases (k : BitVec 8) (width : Nat) (s : State) :
    (s.rxPresent = false ∧ dataCheck k width s = some .errNoframe) ∨
      (s.rxPresent = true ∧ s.rxDlen.toNat < k.toNat + width ∧ dataCheck k width s = some .errRange) ∨
      (s.rxPresent = true ∧ k.toNat + width ≤ s.rxDlen.toNat ∧ dataCheck k width s = none) := by
  cases hp : s.rxPresent
  · exact .inl ⟨rfl, by simp [dataCheck, hp]⟩
  · by_cases hd : s.rxDlen.toNat < k.toNat + width
    · exact .inr (.inl ⟨rfl, hd, by simp [dataCheck, hp, hd]⟩)
    · exact .inr (.inr ⟨rfl, by omega, by simp [dataCheck, hp, hd]⟩)

/-- The four outcomes of a field read: no telegram, out of range, a field outside RXBUF, or the value in RESULT. -/
theorem readField_cases (k : BitVec 8) (width : Nat) (v : Memory → Nat → BitVec 32) (s : State) :
    (s.rxPresent = false ∧ readField k width v s = .next (s.raised .errNoframe)) ∨
      (s.rxPresent = true ∧ s.rxDlen.toNat < k.toNat + width ∧
        readField k width v s = .next (s.raised .errRange)) ∨
      (s.rxPresent = true ∧ k.toNat + width ≤ s.rxDlen.toNat ∧ s.rxCap < Config.dataOff + k.toNat + width ∧
        readField k width v s = .fault .rxIndexOutside) ∨
      (s.rxPresent = true ∧ k.toNat + width ≤ s.rxDlen.toNat ∧ Config.dataOff + k.toNat + width ≤ s.rxCap ∧
        readField k width v s = .next ((s.setResult (v s.rxbuf (Config.dataOff + k.toNat))).completed .ok)) := by
  rcases dataCheck_cases k width s with ⟨hp, e⟩ | ⟨hp, hd, e⟩ | ⟨hp, hd, e⟩
  · exact .inl ⟨hp, by simp [readField, e]⟩
  · exact .inr (.inl ⟨hp, hd, by simp [readField, e]⟩)
  · by_cases hc : s.rxCap < Config.dataOff + k.toNat + width
    · exact .inr (.inr (.inl ⟨hp, hd, hc, by simp [readField, e, hc]⟩))
    · exact .inr (.inr (.inr ⟨hp, hd, by omega, by simp [readField, e, hc]⟩))

/-- PPUSH stages its byte, or reports ERR_PARAM_FULL at sixteen. -/
theorem execPpush_cases (b : BitVec 8) (s : State) :
    (∃ h : s.plen.val < 16, execPpush b s =
        .next ((s.setParam (s.param.write s.plen.val b) ⟨s.plen.val + 1, Nat.succ_lt_succ h⟩).completed .ok)) ∨
      (s.plen.val = 16 ∧ execPpush b s = .next (s.raised .errParamFull)) := by
  by_cases h : s.plen.val < 16
  · exact .inl ⟨h, dif_pos h⟩
  · exact .inr ⟨by omega, dif_neg h⟩

/-- RXPUSH overflows at the capacity, stops beyond it, and appends below it. -/
theorem execRxpush_cases (b : BitVec 8) (s : State) :
    (s.rxlen.toNat = s.rxCap ∧ execRxpush b s = .next (s.markOvf.clearRx.completed .errRxOvf)) ∨
      (s.rxCap < s.rxlen.toNat ∧ execRxpush b s = .fault .rxIndexOutside) ∨
      (s.rxlen.toNat < s.rxCap ∧ execRxpush b s =
        .next ((s.setRx (s.rxbuf.write s.rxlen.toNat b) (s.rxlen + 1#8)).clearRx.completed .ok)) := by
  rcases lt_trichotomy s.rxlen.toNat s.rxCap with h | h | h
  · exact .inr (.inr ⟨h, by simp [execRxpush, Nat.ne_of_lt h, Nat.not_lt_of_gt h]⟩)
  · exact .inl ⟨h, by simp [execRxpush, h]⟩
  · exact .inr (.inl ⟨h, by simp [execRxpush, Nat.ne_of_gt h, h]⟩)

/-- DECODE's outcomes, in the order of its checks (R185). -/
theorem execDecode_cases (s : State) :
    (s.rxOvf = true ∧ execDecode s = .next (s.raised .errRxOvf)) ∨
      (s.rxOvf = false ∧ s.rxlen.toNat < 6 ∧ execDecode s = .next (s.raised .errShort)) ∨
      (s.rxOvf = false ∧ 6 ≤ s.rxlen.toNat ∧ s.rxCap < s.rxlen.toNat ∧ execDecode s = .fault .rxIndexOutside) ∨
      (s.rxOvf = false ∧ 6 ≤ s.rxlen.toNat ∧ s.rxlen.toNat ≤ s.rxCap ∧ execDecode s =
        .next ((s.setDecoded s.rxlen.toNat (s.rxbuf.recvChecksum s.rxlen.toNat)
          (s.rxbuf.calcChecksum s.rxlen.toNat)).completed
            (if s.rxbuf.frameValid s.rxlen.toNat then .ok else .cksumBad))) := by
  cases ho : s.rxOvf
  · by_cases h6 : s.rxlen.toNat < 6
    · have h : s.rxlen.toNat < Config.minRx := h6
      exact .inr (.inl ⟨rfl, h6, by simp [execDecode, ho, h]⟩)
    · have h : ¬ s.rxlen.toNat < Config.minRx := h6
      by_cases hc : s.rxCap < s.rxlen.toNat
      · exact .inr (.inr (.inl ⟨rfl, by omega, hc, by simp [execDecode, ho, h, hc]⟩))
      · exact .inr (.inr (.inr ⟨rfl, by omega, by omega, by simp [execDecode, ho, h, hc]⟩))
  · exact .inl ⟨rfl, by simp [execDecode, ho]⟩

/-- RDS's outcomes. -/
theorem execRds_cases (s : State) :
    (s.rxPresent = false ∧ execRds s = .next (s.raised .errNoframe)) ∨
      (s.rxPresent = true ∧ s.rxCap < 4 + keptLength s.rxDlen.toNat ∧ execRds s = .fault .rxIndexOutside) ∨
      (s.rxPresent = true ∧ 4 + keptLength s.rxDlen.toNat ≤ s.rxCap ∧ execRds s =
        .next ((s.setResult (BitVec.ofNat 32
          (stringLength (s.rxbuf.readBytes 4 (keptLength s.rxDlen.toNat))))).completed .ok)) := by
  cases hp : s.rxPresent
  · exact .inl ⟨rfl, by simp [execRds, hp]⟩
  · by_cases hc : s.rxCap < 4 + keptLength s.rxDlen.toNat
    · exact .inr (.inl ⟨rfl, hc, by simp [execRds, hp, hc]⟩)
    · exact .inr (.inr ⟨rfl, by omega, by simp [execRds, hp, hc]⟩)

/-- A command word runs its command, or reports ERR_ILLEGAL. -/
theorem hostCommand_cases (w : CommandWord) (s : State) :
    (∃ i, decode w = .ok i ∧ hostCommand w s = exec i s) ∨
      (∃ e, decode w = .error e ∧ hostCommand w s = .next (s.raised .errIllegal)) := by
  cases h : decode w with
  | ok i => exact .inl ⟨i, rfl, by simp [hostCommand, h]⟩
  | error e => exact .inr ⟨e, rfl, by simp [hostCommand, h, execIllegal]⟩

/-- A step is idle, or the host's next command, read or reset. -/
theorem step_cases (s : State) :
    (s.pending = [] ∧ step s = .next s) ∨
      (∃ w rest, s.pending = .command w :: rest ∧ step s = hostCommand w (s.setPending rest)) ∨
      (∃ r rest, s.pending = .read r :: rest ∧
        step s = .next ((s.setPending rest).setReply (hostRead (s.setPending rest) r))) ∨
      (∃ rest, s.pending = .reset :: rest ∧ step s = .next (hostReset (s.setPending rest))) := by
  cases h : s.pending with
  | nil => exact .inl ⟨rfl, by simp [step, hostStep, h]⟩
  | cons a rest =>
    cases a with
    | command w => exact .inr (.inl ⟨w, rest, rfl, by simp [step, hostStep, h, perform]⟩)
    | read r => exact .inr (.inr (.inl ⟨r, rest, rfl, by simp [step, hostStep, h, perform]⟩))
    | reset => exact .inr (.inr (.inr ⟨rest, rfl, by simp [step, hostStep, h, perform]⟩))

end Sys2Proof.Machine
end

