-- ==== Sys2Proof/Laws/PerInstr.lean ====
section
/-! SUPPORT. Per-instruction facts about the encoding: the word of a command selects the command's own row of the
opcode table (spec/30_encoding.md rules R75, R77). -/

namespace Sys2Proof.Laws.EncodeSelectsRow

/-- The row of R77 a command stands in. -/
def row : Instr → OpcodeRow
  | .nop => rowNop
  | .encq _ _ => rowEncq
  | .encc _ _ => rowEncc
  | .pclr => rowPclr
  | .ppush _ => rowPpush
  | .rxclr => rowRxclr
  | .rxpush _ => rowRxpush
  | .decode => rowDecode
  | .rdb _ => rowRdb
  | .rdw _ => rowRdw
  | .rdf _ => rowRdf
  | .rds => rowRds

/-- The command's word has its row's opcode, and 0 in every bit outside the opcode and the row's fields. -/
def Statement (i : Instr) : Prop := (row i).selects (encode i) = true

/-- The three bits above an L field are 0. -/
theorem low_lane (len : BitVec 5) : (0#3 ++ len : BitVec 8) &&& 0xE0#8 = 0#8 := by
  revert len; decide

theorem nop : Statement .nop := by unfold Statement; decide

theorem encq (obj : BitVec 8) (len : BitVec 5) : Statement (.encq obj len) :=
  (OpcodeRow.selects_layoutWord 0xFF#8 0x00#8 0xFF#8 0xE0#8 0x01#8 0#8 0#8 0#8 _ _ _ _).mpr
    ⟨by decide, BitVec.and_zero, by decide, low_lane len⟩

theorem encc (obj : BitVec 8) (len : BitVec 5) : Statement (.encc obj len) :=
  (OpcodeRow.selects_layoutWord 0xFF#8 0x00#8 0xFF#8 0xE0#8 0x02#8 0#8 0#8 0#8 _ _ _ _).mpr
    ⟨by decide, BitVec.and_zero, by decide, low_lane len⟩

theorem pclr : Statement .pclr := by unfold Statement; decide

theorem ppush (b : BitVec 8) : Statement (.ppush b) :=
  (OpcodeRow.selects_layoutWord 0xFF#8 0x00#8 0xFF#8 0xFF#8 0x04#8 0#8 0#8 0#8 _ _ _ _).mpr
    ⟨by decide, BitVec.and_zero, by decide, by decide⟩

theorem rxclr : Statement .rxclr := by unfold Statement; decide

theorem rxpush (b : BitVec 8) : Statement (.rxpush b) :=
  (OpcodeRow.selects_layoutWord 0xFF#8 0x00#8 0xFF#8 0xFF#8 0x06#8 0#8 0#8 0#8 _ _ _ _).mpr
    ⟨by decide, BitVec.and_zero, by decide, by decide⟩

theorem decode : Statement .decode := by unfold Statement; decide

theorem rdb (k : BitVec 8) : Statement (.rdb k) :=
  (OpcodeRow.selects_layoutWord 0xFF#8 0xFF#8 0x00#8 0xFF#8 0x08#8 0#8 0#8 0#8 _ _ _ _).mpr
    ⟨by decide, by decide, BitVec.and_zero, by decide⟩

theorem rdw (k : BitVec 8) : Statement (.rdw k) :=
  (OpcodeRow.selects_layoutWord 0xFF#8 0xFF#8 0x00#8 0xFF#8 0x09#8 0#8 0#8 0#8 _ _ _ _).mpr
    ⟨by decide, by decide, BitVec.and_zero, by decide⟩

theorem rdf (k : BitVec 8) : Statement (.rdf k) :=
  (OpcodeRow.selects_layoutWord 0xFF#8 0xFF#8 0x00#8 0xFF#8 0x0A#8 0#8 0#8 0#8 _ _ _ _).mpr
    ⟨by decide, by decide, BitVec.and_zero, by decide⟩

theorem rds : Statement .rds := by unfold Statement; decide

end Sys2Proof.Laws.EncodeSelectsRow
end

