-- ==== Sys2Proof/Laws/Safety.lean ====
section
/-! SUPPORT. The lemmas of the terms the statements use: sums of bytes, and that what is left alone stays left alone. -/

namespace Sys2Proof.Machine

@[simp] theorem sumBytes_zero (m : Memory) (i : Nat) : sumBytes m i 0 = 0 := rfl

theorem sumBytes_succ (m : Memory) (i n : Nat) :
    sumBytes m i (n + 1) = (m.read i).toNat + sumBytes m (i + 1) n := by
  have h : ∀ k, i + 1 + k = i + (k + 1) := by omega
  simp [sumBytes, List.range_succ_eq_map, List.map_map, Function.comp_def, h]

/-- The sum of a range is the sum of the bytes read from it. -/
theorem byteSum_readBytes (m : Memory) (i n : Nat) : byteSum (m.readBytes i n) = sumBytes m i n := by
  induction n generalizing i with
  | zero => rfl
  | succ n ih => rw [Memory.readBytes, byteSum_cons, ih, sumBytes_succ]

theorem SameBytes.refl (m : Memory) : SameBytes m m := fun _ => rfl

theorem SameBytes.trans {a b c : Memory} (h : SameBytes a b) (h' : SameBytes b c) : SameBytes a c :=
  fun i => (h' i).trans (h i)

@[simp] theorem execAll_nil (s : State) : execAll [] s = some s := rfl

/-- A sequence goes on from the state its first command leaves. -/
theorem execAll_cons {i : Instr} {is : List Instr} {s t : State} (h : exec i s = .next t) :
    execAll (i :: is) s = execAll is t := by
  simp [execAll, h]

/-- A sequence in two parts. -/
theorem execAll_append (as bs : List Instr) (s : State) :
    execAll (as ++ bs) s = (execAll as s).bind (execAll bs) := by
  induction as generalizing s with
  | nil => rfl
  | cons a as ih =>
    cases h : exec a s with
    | next t => simp [execAll, h, ih]
    | fault r => simp [execAll, h]
    | refused r => simp [execAll, h]

end Sys2Proof.Machine
end

