-- ==== Sys2Proof/Tests/Slice0.lean ====
section
/-! SUPPORT. Tests: what the checks refuse, the words of the commands written out from the encoding patterns of
spec/30_encoding.md, single commands against the vectors of spec/95_test_vectors.md, and a witness for the hypotheses
of each statement. -/

namespace Sys2Proof.Tests
open Sys2Proof.Machine

/-! ### Helpers -/

/-- The next state, if there is one. -/
def stateOf : Result → Option State
  | .next s => some s
  | .fault _ => none
  | .refused _ => none

/-- The state a command leaves, or the state before where it stops. -/
def after (i : Instr) (s : State) : State := (stateOf (exec i s)).getD s

/-- The reset state with these bytes received. -/
def loaded (bs : List Byte) : State :=
  { State.reset with rxbuf := Memory.writeBytes [] 0 bs, rxlen := BitVec.ofNat 8 bs.length }

/-- The reset state with these param bytes staged. -/
def staged (bs : List Byte) (n : Fin 17) : State := { State.reset with param := Memory.writeBytes [] 0 bs, plen := n }

/-- The status reply of 95_test_vectors.md section 2.1 (illustrative bytes). -/
def reply12 : List Byte :=
  [0x75#8, 0x00#8, 0x00#8, 0x47#8, 0x01#8, 0x01#8, 0x32#8, 0x00#8, 0x19#8, 0x00#8, 0x01#8, 0x09#8]

/-- The 6-byte frame of section 2.3: no data bytes. -/
def reply6 : List Byte := [0x71#8, 0x00#8, 0x00#8, 0x32#8, 0x00#8, 0xA3#8]

/-- The string reply of section 1.5, 22 bytes. -/
def reply22 : List Byte :=
  [0x7F#8, 0#8, 0#8, 0#8, 0x45#8, 0x41#8, 0x2D#8, 0x50#8, 0x53#8, 0#8, 0#8, 0#8, 0#8, 0#8, 0#8, 0#8, 0#8, 0#8,
   0#8, 0#8, 0x01#8, 0xD5#8]

/-! ### WellFormed: an ill-formed term for each check -/

theorem test_wf_refuses_wide_object : (AsmLine.encq 256 1).wf 22 = false := by decide
theorem test_wf_refuses_wide_length : (AsmLine.encc 0 32).wf 22 = false := by decide
theorem test_wf_refuses_wide_byte : (AsmLine.rxpush 256).wf 22 = false := by decide
theorem test_wf_refuses_wide_offset : (AsmLine.rdw 256).wf 22 = false := by decide
theorem test_wf_refuses_17_params : (AsmLine.control 0 1 (List.replicate 17 0)).wf 22 = false := by decide
theorem test_wf_refuses_wide_param : (AsmLine.control 0 1 [256]).wf 22 = false := by decide
theorem test_wf_refuses_wide_raw : (AsmLine.setword 50 2 65536).wf 22 = false := by decide
theorem test_wf_refuses_long_reply : (AsmLine.recv (List.replicate 23 0)).wf 22 = false := by decide
theorem test_wf_refuses_wide_received_byte : (AsmLine.rxload [256]).wf 22 = false := by decide
/-- `len` up to 31 is accepted (R76). -/
theorem test_wf_accepts_length_31 : (AsmLine.encq 255 31).wf 22 = true := by decide

/-! ### Decode: one word per command, bits written out from the patterns below R77 -/

theorem test_decode_nop : decode 0b00000000000000000000000000000000#32 = .ok .nop := by decide
theorem test_decode_encq : decode 0b00000001010001110000000000000110#32 = .ok (.encq 0x47#8 6#5) := by decide
theorem test_decode_encc : decode 0b00000010001100100000000000000010#32 = .ok (.encc 0x32#8 2#5) := by decide
theorem test_decode_pclr : decode 0b00000011000000000000000000000000#32 = .ok .pclr := by decide
theorem test_decode_ppush : decode 0b00000100001100100000000000000000#32 = .ok (.ppush 0x32#8) := by decide
theorem test_decode_rxclr : decode 0b00000101000000000000000000000000#32 = .ok .rxclr := by decide
theorem test_decode_rxpush : decode 0b00000110011101010000000000000000#32 = .ok (.rxpush 0x75#8) := by decide
theorem test_decode_decode : decode 0b00000111000000000000000000000000#32 = .ok .decode := by decide
theorem test_decode_rdb : decode 0b00001000000000000000010100000000#32 = .ok (.rdb 5#8) := by decide
theorem test_decode_rdw : decode 0b00001001000000000000001000000000#32 = .ok (.rdw 2#8) := by decide
theorem test_decode_rdf : decode 0b00001010000000001000000000000000#32 = .ok (.rdf 0x80#8) := by decide
theorem test_decode_rds : decode 0b00001011000000000000000000000000#32 = .ok .rds := by decide

/-- The illegal words of 95_test_vectors.md section 2.5. -/
theorem test_decode_illegal :
    [0x0C000000#32, 0xFF000000#32, 0x00000001#32, 0x01470026#32, 0x01470106#32, 0x03000001#32, 0x04320001#32,
      0x08010000#32, 0x0B000100#32, 0x07FFFFFF#32, 0x05800000#32].all (fun w => (decode w).toOption == none) = true := by
  decide

/-- The words of section 2.2. -/
theorem test_encode : encode (.encq 0xFF#8 16#5) = 0x01FF0010#32 ∧ encode (.encc 0xFF#8 16#5) = 0x02FF0010#32 := by
  decide

theorem test_decodeTableWord : decodeTableWord 32 0x0900FF00 = some (.rdw 0xFF#8) := by decide

/-! ### Commands, against 95_test_vectors.md -/

/-- Section 2.5. -/
theorem test_nop : (after .nop { State.reset with status := 2#8, sticky := 4#32 }) =
    { State.reset with sticky := 4#32 } := by decide
theorem test_illegal : stateOf (hostCommand 0xFF000000#32 State.reset) =
    some { State.reset with status := 8#8, sticky := 0x100#32 } := by decide

/-- Section 2.2: the largest query, and ERR_LEN. -/
theorem test_encq : (after (.encq 255#8 16#5) State.reset).txFrame = [0x7F#8, 0x00#8, 0xFF#8, 0x01#8, 0x7E#8] := by
  decide
theorem test_encq_len : after (.encq 71#8 17#5) State.reset =
    { State.reset with status := 2#8, sticky := 4#32 } := by decide

/-- Section 2.2: a setpoint write, and the largest control telegram's checksum. -/
theorem test_encc : (after (.encc 0x32#8 2#5) (staged [0x32#8, 0x00#8] 2)).txFrame =
    [0xF1#8, 0x00#8, 0x32#8, 0x32#8, 0x00#8, 0x01#8, 0x55#8] := by decide
theorem test_encc_largest :
    (after (.encc 0xFF#8 16#5) (staged (List.replicate 16 0xFF#8) 16)).txbuf.readBytes 17 4 =
      [0xFF#8, 0xFF#8, 0x11#8, 0xEE#8] := by decide

theorem test_pclr : after .pclr (staged [0x32#8] 1) = { staged [0x32#8] 1 with plen := 0 } := by decide

theorem test_ppush : after (.ppush 0x32#8) State.reset = { State.reset with param := [(0, 0x32#8)], plen := 1 } := by
  decide
theorem test_ppush_full : (after (.ppush 0xAA#8) (staged [0x01#8] 16)) =
    { staged [0x01#8] 16 with status := 3#8, sticky := 8#32 } := by decide

/-- Section 2.3: RXCLR after an overflow leaves STICKY bit 5 and the bytes. -/
theorem test_rxclr : after .rxclr { loaded reply22 with rxOvf := true, sticky := 0x20#32 } =
    { loaded reply22 with rxlen := 0#8, sticky := 0x20#32 } := by decide

theorem test_rxpush : after (.rxpush 0x75#8) State.reset =
    { State.reset with rxbuf := [(0, 0x75#8)], rxlen := 1#8 } := by decide
/-- Section 3.5 step 2: the 23rd byte. -/
theorem test_rxpush_overflow : after (.rxpush 0xAA#8) (loaded reply22) =
    { loaded reply22 with rxOvf := true, status := 5#8, sticky := 0x20#32 } := by decide

/-- Section 2.3: the status reply, and the same with its last byte wrong. -/
theorem test_decode_reply : after .decode (loaded reply12) =
    { loaded reply12 with
      rxPresent := true, rxValid := true, rxSd := 0x75#8, rxObj := 0x47#8, rxDlen := 6#8,
      ckRecv := 0x0109#16, ckCalc := 0x0109#16 } := by decide
theorem test_decode_bad : after .decode (loaded (reply12.set 11 0x0A#8)) =
    { loaded (reply12.set 11 0x0A#8) with
      status := 1#8, sticky := 2#32, rxPresent := true, rxSd := 0x75#8, rxObj := 0x47#8, rxDlen := 6#8,
      ckRecv := 0x010A#16, ckCalc := 0x0109#16 } := by decide

/-- The decoded status reply of section 2.4. -/
def decoded12 : State := after .decode (loaded reply12)

/-- The decoded 6-byte frame. -/
def decoded6 : State := after .decode (loaded reply6)

theorem test_rdb : (after (.rdb 1#8) decoded12).result = 1#32 := by decide
theorem test_rdb_range : (after (.rdb 6#8) decoded12).status = 7#8 := by decide
theorem test_rdw : (after (.rdw 2#8) decoded12).result = 0x3200#32 := by decide
theorem test_rdw_no_wrap : (after (.rdw 255#8) decoded12).status = 7#8 := by decide
theorem test_rdf : (after (.rdf 2#8) decoded12).result = 0x32001900#32 := by decide
theorem test_rdf_range : (after (.rdf 3#8) decoded12).status = 7#8 := by decide
/-- Section 1.5. -/
theorem test_rds : (after .rds (after .decode (loaded reply22))).result = 5#32 := by decide
theorem test_rds_noframe : after .rds State.reset = { State.reset with status := 6#8, sticky := 0x40#32 } := by decide

/-! ### The host interface and the assembler -/

/-- Section 2.6. -/
theorem test_caps : hostRead (State.powerOn 40) 0x0F#8 = 0x10150428#32 ∧
    hostRead (State.powerOn 128) 0x0F#8 = 0x10150480#32 := by decide
/-- Section 3.1, end state. -/
theorem test_hostRead : hostRead decoded12 0x06#8 = 3#32 ∧ hostRead decoded12 0x0D#8 = 1#32 ∧
    hostRead decoded12 0x0E#8 = 6#32 ∧ hostRead decoded12 0x8B#8 = 9#32 := by decide
theorem test_step_runs_word : stateOf (step (State.reset.withFetchWord 32 0x04320000)) =
    some { State.reset with param := [(0, 0x32#8)], plen := 1 } := by decide
theorem test_parse : parseLine [' ', 'R', 'D', 'W', ' ', '0', 'x', '1', 'F', ' ', ';', 'k'] = .line (.rdw 31) := by
  decide
theorem test_parse_operands : parseLine ['E', 'N', 'C', 'Q', ' ', '7', '1', ',', ' ', '6'] = .line (.encq 71 6) := by
  decide
/-- R88 with the words of R112's example. -/
theorem test_setword : (assemble 22 (.setword 0x32 2 12800)).map (List.map encode) =
    some [0x03000000#32, 0x04320000#32, 0x04000000#32, 0x02320002#32] := by decide

/-- The helper column of R83: the rows 0x00, 0x02, 0x32, 0x36 and 0x47, the last at an offset of the consumer's. -/
theorem test_object_helpers :
    ObjectId.deviceType.helpers.map (Helper.command 4#8) = [.rds] ∧
    ObjectId.nominalVoltage.helpers.map (Helper.command 4#8) = [.rdf 0#8] ∧
    ObjectId.voltageSetpoint.helpers.map (Helper.command 4#8) = [.rdw 0#8] ∧
    ObjectId.supplyControl.helpers = [] ∧
    ObjectId.actualStatus.helpers.map (Helper.command 4#8) = [.rdw 4#8, .rdb 4#8] := by decide

/-! ### Legal states used as witnesses -/

theorem inv_reset : Inv State.reset :=
  ⟨by decide, by decide, by decide, by decide, by decide, fun _ _ => rfl, by decide, by decide, ⟨.ok, by decide, rfl⟩,
    fun _ => ⟨rfl, rfl, rfl, rfl, rfl, rfl, rfl, rfl⟩, fun h => absurd h (by decide)⟩

theorem inv_loaded12 : Inv (loaded reply12) :=
  ⟨by decide, by decide, by decide, by decide, by decide, fun _ _ => rfl, by decide, by decide, ⟨.ok, by decide, rfl⟩,
    fun _ => ⟨rfl, rfl, rfl, rfl, rfl, rfl, rfl, rfl⟩, fun h => absurd h (by decide)⟩

theorem inv_decoded12 : Inv decoded12 :=
  ⟨by decide, by decide, by decide, by decide, by decide, fun _ _ => rfl, by decide, by decide, ⟨.ok, by decide, rfl⟩,
    fun h => absurd h (by decide), by decide⟩

theorem inv_decoded6 : Inv decoded6 :=
  ⟨by decide, by decide, by decide, by decide, by decide, fun _ _ => rfl, by decide, by decide, ⟨.ok, by decide, rfl⟩,
    fun h => absurd h (by decide), by decide⟩

theorem inv_staged : Inv (staged [0x07#8] 1) :=
  ⟨by decide, by decide, by decide, by decide, by decide, fun _ _ => rfl, by decide, by decide, ⟨.ok, by decide, rfl⟩,
    fun _ => ⟨rfl, rfl, rfl, rfl, rfl, rfl, rfl, rfl⟩, fun h => absurd h (by decide)⟩

/-! ### Witnesses: for each statement with hypotheses, a state and operands that meet them, each clause at a boundary -/

theorem witness_EncodeOfDecodeIsTheWord : decode 0x01FF001F#32 = .ok (.encq 0xFF#8 31#5) := by decide

/-- A word of each row, and the first word no row selects. -/
theorem witness_DecodeFollowsTheOpcodeMap :
    0x00000000#32 &&& 0xFFFFFFFF#32 = 0x00000000#32 ∧ 0x01FF001F#32 &&& 0xFF00FFE0#32 = 0x01000000#32 ∧
    0x02FF001F#32 &&& 0xFF00FFE0#32 = 0x02000000#32 ∧ 0x03000000#32 &&& 0xFFFFFFFF#32 = 0x03000000#32 ∧
    0x04FF0000#32 &&& 0xFF00FFFF#32 = 0x04000000#32 ∧ 0x05000000#32 &&& 0xFFFFFFFF#32 = 0x05000000#32 ∧
    0x06FF0000#32 &&& 0xFF00FFFF#32 = 0x06000000#32 ∧ 0x07000000#32 &&& 0xFFFFFFFF#32 = 0x07000000#32 ∧
    0x0800FF00#32 &&& 0xFFFF00FF#32 = 0x08000000#32 ∧ 0x0900FF00#32 &&& 0xFFFF00FF#32 = 0x09000000#32 ∧
    0x0A00FF00#32 &&& 0xFFFF00FF#32 = 0x0A000000#32 ∧ 0x0B000000#32 &&& 0xFFFFFFFF#32 = 0x0B000000#32 ∧
    (rowEncq ∈ opcodeTable ∧ 0x01FF001F#32 &&& rowEncq.mask = rowEncq.pattern) ∧
    (∀ r ∈ opcodeTable, 0x0C000000#32 &&& r.mask ≠ r.pattern) ∧
    (∀ r ∈ opcodeTable, 0x01000020#32 &&& r.mask ≠ r.pattern) := by decide

/-- The first unassigned opcode, and the lowest reserved bit of ENCQ. -/
theorem witness_IllegalWordsChangeOnlyStatusAndSticky :
    decode 0x0C000000#32 = .error (.unassignedOpcode 0x0C#8) ∧
    decode 0x01000020#32 = .error (.reservedBitSet 0x01#8) := by decide

theorem witness_StepRunsTheDecodedCommand :
    { State.reset with pending := [.command 0x01470006#32] }.pending = .command 0x01470006#32 :: [] ∧
    decode 0x01470006#32 = .ok (.encq 0x47#8 6#5) := by decide

theorem witness_StepServesTheHost :
    ({ State.reset with pending := [.command 0x0C000000#32] }.pending = .command 0x0C000000#32 :: [] ∧
      decode 0x0C000000#32 = .error (.unassignedOpcode 0x0C#8)) ∧
    { State.reset with pending := [.read 0xFF#8] }.pending = .read 0xFF#8 :: [] ∧
    { State.reset with pending := [.reset] }.pending = .reset :: [] ∧ State.reset.pending = [] := by decide

theorem witness_ResetClearsEveryRegister : hostReset decoded12 = hostReset decoded12 ∨ hostReset decoded12 = State.reset :=
  .inl rfl

theorem witness_ResetRegisterView : (22 ≤ 22 ∧ 22 ≤ 128) ∧ 22 ≤ 128 ∧ 128 ≤ 128 := by decide

/-- Both ends of every range of register numbers, in the smallest and the largest build. -/
theorem witness_HostReadFollowsTheRegisterMap :
    (State.powerOn 22).rxCap ≤ 128 ∧ (State.powerOn 128).rxCap ≤ 128 ∧
    (0x10 ≤ (0x10#8).toNat ∧ (0x1F#8).toNat ≤ 0x1F) ∧ (0x20 ≤ (0x20#8).toNat ∧ (0x34#8).toNat ≤ 0x34) ∧
    (0x35 ≤ (0x35#8).toNat ∧ (0x3F#8).toNat ≤ 0x3F) ∧ (0x40 ≤ (0x40#8).toNat ∧ (0x4F#8).toNat ≤ 0x4F) ∧
    (0x50 ≤ (0x50#8).toNat ∧ (0x7F#8).toNat ≤ 0x7F) ∧ 0x80 ≤ (0x80#8).toNat ∧ 0x80 ≤ (0xFF#8).toNat := by decide

/-- The least and the greatest legal length, and the illegal lengths next to them. -/
theorem witness_EncqBuildsTheQuery :
    (1 ≤ (1#5).toNat ∧ (1#5).toNat ≤ 16) ∧ (1 ≤ (16#5).toNat ∧ (16#5).toNat ≤ 16) ∧
    ((0#5).toNat = 0 ∨ 17 ≤ (0#5).toNat) ∧ ((17#5).toNat = 0 ∨ 17 ≤ (17#5).toNat) := by decide

/-- The same lengths, with no param byte staged and with sixteen. -/
theorem witness_EnccBuildsTheControlTelegram :
    (1 ≤ (1#5).toNat ∧ (1#5).toNat ≤ 16) ∧ (1 ≤ (16#5).toNat ∧ (16#5).toNat ≤ 16) ∧
    ((0#5).toNat = 0 ∨ 17 ≤ (0#5).toNat) ∧ ((17#5).toNat = 0 ∨ 17 ≤ (17#5).toNat) ∧
    (after (.encc 1#8 1#5) (staged [] 0)).txlen.val = 5 ∧
    (after (.encc 1#8 1#5) (staged [] 16)).txlen.val = 21 := by decide

theorem witness_PpushStagesOneByte : (staged [] 15).plen.val ≠ 16 ∧ (staged [] 16).plen.val = 16 := by decide

theorem witness_RxpushAppendsOrOverflows :
    State.reset.rxCap ≤ 128 ∧ (loaded (List.replicate 21 0#8)).rxlen.toNat < State.reset.rxCap ∧
    (loaded reply22).rxlen.toNat = State.reset.rxCap := by decide

theorem witness_DecodeParsesAndVerifies :
    ((loaded reply22).rxlen.toNat ≤ 22 ∧ { loaded reply22 with rxOvf := true }.rxOvf = true) ∧
    ((loaded (List.replicate 5 0#8)).rxlen.toNat ≤ 22 ∧ (loaded (List.replicate 5 0#8)).rxOvf = false ∧
      (loaded (List.replicate 5 0#8)).rxlen.toNat < 6) ∧
    ((loaded reply6).rxlen.toNat ≤ 22 ∧ (loaded reply6).rxOvf = false ∧ 6 ≤ (loaded reply6).rxlen.toNat) := by decide

theorem witness_RdbReadsOneDataByte :
    (Inv State.reset ∧ State.reset.rxPresent = false) ∧
    (Inv decoded12 ∧ decoded12.rxPresent = true ∧ decoded12.rxDlen.toNat < (6#8).toNat + 1) ∧
    (Inv decoded12 ∧ decoded12.rxPresent = true ∧ (5#8).toNat + 1 ≤ decoded12.rxDlen.toNat) :=
  ⟨⟨inv_reset, by decide⟩, ⟨inv_decoded12, by decide⟩, ⟨inv_decoded12, by decide⟩⟩

theorem witness_RdwReadsABigEndianWord :
    (Inv State.reset ∧ State.reset.rxPresent = false) ∧
    (Inv decoded12 ∧ decoded12.rxPresent = true ∧ decoded12.rxDlen.toNat < (5#8).toNat + 2) ∧
    (Inv decoded12 ∧ decoded12.rxPresent = true ∧ (4#8).toNat + 2 ≤ decoded12.rxDlen.toNat) :=
  ⟨⟨inv_reset, by decide⟩, ⟨inv_decoded12, by decide⟩, ⟨inv_decoded12, by decide⟩⟩

theorem witness_RdfReadsABigEndianPattern :
    (Inv State.reset ∧ State.reset.rxPresent = false) ∧
    (Inv decoded12 ∧ decoded12.rxPresent = true ∧ decoded12.rxDlen.toNat < (3#8).toNat + 4) ∧
    (Inv decoded12 ∧ decoded12.rxPresent = true ∧ (2#8).toNat + 4 ≤ decoded12.rxDlen.toNat) :=
  ⟨⟨inv_reset, by decide⟩, ⟨inv_decoded12, by decide⟩, ⟨inv_decoded12, by decide⟩⟩

/-- No telegram, a telegram with no data byte, and one with six. -/
theorem witness_RdsMeasuresTheString :
    (Inv State.reset ∧ State.reset.rxPresent = false) ∧
    (Inv decoded6 ∧ decoded6.rxPresent = true ∧ decoded6.rxDlen.toNat = 0) ∧
    (Inv decoded12 ∧ decoded12.rxPresent = true ∧ decoded12.rxDlen.toNat = 6) :=
  ⟨⟨inv_reset, by decide⟩, ⟨inv_decoded6, by decide⟩, ⟨inv_decoded12, by decide⟩⟩

/-- The first length outside the default RXBUF, and for each field read the first field outside it. -/
theorem witness_IndexOutsideRxbufStops :
    { State.reset with rxlen := 23#8 }.rxCap < { State.reset with rxlen := 23#8 }.rxlen.toNat ∧
    { State.reset with rxlen := 23#8 }.rxOvf = false ∧ 6 ≤ (23#8).toNat ∧
    { State.reset with rxPresent := true, rxDlen := 20#8 }.rxPresent = true ∧
    ((18#8).toNat + 1 ≤ (20#8).toNat ∧ 22 < 4 + (18#8).toNat + 1) ∧
    ((17#8).toNat + 2 ≤ (20#8).toNat ∧ 22 < 4 + (17#8).toNat + 2) ∧
    ((15#8).toNat + 4 ≤ (20#8).toNat ∧ 22 < 4 + (15#8).toNat + 4) ∧ 22 < 4 + ((20#8).toNat - 1) := by decide

/-- A step for each clause: each part of the state does change under a command that may write it. -/
theorem witness_OnlyItsOwnCommandsWriteARegister :
    (exec (.rdb 0#8) decoded12 = .next (after (.rdb 0#8) decoded12) ∧
      (after (.rdb 0#8) decoded12).result ≠ decoded12.result) ∧
    (exec (.encq 1#8 1#5) State.reset = .next (after (.encq 1#8 1#5) State.reset) ∧
      ¬ SameTx State.reset (after (.encq 1#8 1#5) State.reset)) ∧
    (exec (.ppush 1#8) State.reset = .next (after (.ppush 1#8) State.reset) ∧
      ¬ SameBytes State.reset.param (after (.ppush 1#8) State.reset).param ∧
      (after (.ppush 1#8) State.reset).plen ≠ State.reset.plen) ∧
    (exec (.rxpush 1#8) State.reset = .next (after (.rxpush 1#8) State.reset) ∧
      ¬ SameBytes State.reset.rxbuf (after (.rxpush 1#8) State.reset).rxbuf ∧
      (after (.rxpush 1#8) State.reset).rxlen ≠ State.reset.rxlen) ∧
    (exec (.rxpush 1#8) (loaded reply22) = .next (after (.rxpush 1#8) (loaded reply22)) ∧
      (after (.rxpush 1#8) (loaded reply22)).rxOvf = true ∧ (loaded reply22).rxOvf = false) ∧
    (exec .rxclr { State.reset with rxOvf := true } = .next (after .rxclr { State.reset with rxOvf := true }) ∧
      (after .rxclr { State.reset with rxOvf := true }).rxOvf = false) ∧
    (exec .decode (loaded reply12) = .next decoded12 ∧ ¬ SameDecoded (loaded reply12) decoded12) :=
  ⟨⟨rfl, by decide⟩, ⟨rfl, fun h => absurd (h.1 2) (by decide)⟩,
    ⟨rfl, fun h => absurd (h 0) (by decide), by decide⟩, ⟨rfl, fun h => absurd (h 0) (by decide), by decide⟩,
    ⟨rfl, by decide⟩, ⟨rfl, by decide⟩, ⟨rfl, fun h => absurd h.1 (by decide)⟩⟩

/-- Errors of codes 2 and 8, and code 5 from DECODE. -/
theorem witness_ErrorsArePrecise :
    (hostCommand 0x01470011#32 State.reset = .next { State.reset with status := 2#8, sticky := 4#32 }) ∧
    (hostCommand 0xFF000000#32 State.reset = .next { State.reset with status := 8#8, sticky := 0x100#32 }) ∧
    (hostCommand 0x07000000#32 { State.reset with rxOvf := true } =
      .next { State.reset with rxOvf := true, status := 5#8, sticky := 0x20#32 }) ∧
    (∀ b, decode 0x07000000#32 ≠ .ok (.rxpush b)) :=
  ⟨rfl, rfl, rfl, fun b => by rw [show decode 0x07000000#32 = .ok .decode by decide]; intro h; cases h⟩

theorem witness_EachCommandReportsItsOwnCodes : exec .nop State.reset = .next State.reset := rfl

theorem witness_StickyRecordsEveryCode : Inv State.reset ∧ Inv decoded12 := ⟨inv_reset, inv_decoded12⟩

theorem witness_CommandsIgnoreTheHostSide : exec .decode (loaded reply12) = .next decoded12 := rfl

theorem witness_FieldReadsIgnoreTheChecksum :
    isFieldRead (.rdb 5#8) = true ∧ exec (.rdb 5#8) decoded12 = .next decoded12 := ⟨rfl, rfl⟩

theorem witness_RepeatingACommandChangesNothing :
    Inv (loaded reply12) ∧ isIdempotent .decode = true ∧ exec .decode (loaded reply12) = .next decoded12 :=
  ⟨inv_loaded12, rfl, rfl⟩

theorem witness_WithdrawnTelegramStaysWithdrawn :
    (Instr.decode ∉ [Instr.nop] ∧ isFieldRead .rds = true ∧
      execAll [.rxclr, .nop] decoded12 = some (after .rxclr decoded12)) ∧
    execAll [.rxpush 1#8] decoded12 = some (after (.rxpush 1#8) decoded12) :=
  ⟨⟨by decide, rfl, rfl⟩, rfl⟩

theorem witness_ResetIsLegal : (22 ≤ 22 ∧ 22 ≤ 128) ∧ 128 ≤ 128 ∧ Inv decoded12 :=
  ⟨by decide, by decide, inv_decoded12⟩

/-- The reset state with one command to come. -/
def waiting (w : CommandWord) : State := { State.reset with pending := [.command w] }

theorem inv_waiting (w : CommandWord) : Inv (waiting w) :=
  ⟨inv_reset.1, inv_reset.2, inv_reset.3, inv_reset.4, inv_reset.5, inv_reset.6, inv_reset.7, inv_reset.8, inv_reset.9,
    inv_reset.10, inv_reset.11⟩

theorem witness_EveryStepKeepsTheStateLegal :
    Inv (waiting 0x04320000#32) ∧
    step (waiting 0x04320000#32) = .next { State.reset with param := [(0, 0x32#8)], plen := 1 } :=
  ⟨inv_waiting _, rfl⟩

theorem witness_NoLegalStateStops : Inv decoded12 ∧ Inv (waiting 0xFF000000#32) := ⟨inv_decoded12, inv_waiting _⟩

theorem witness_DecodedRegistersDescribeRxbuf :
    Inv decoded12 ∧ DescribesRxbuf decoded12 ∧ step decoded12 = .next decoded12 :=
  ⟨inv_decoded12, ⟨fun _ => by decide, fun h => absurd h (by decide)⟩, rfl⟩

theorem witness_TransmitFrameAlwaysVerifies :
    Inv (waiting 0x01470006#32) ∧ TxFrameVerifies (waiting 0x01470006#32) ∧
    step (waiting 0x01470006#32) = .next (after (.encq 0x47#8 6#5) State.reset) ∧
    (after (.encq 0x47#8 6#5) State.reset).txlen.val = 5 :=
  ⟨inv_waiting _, .inl rfl, rfl, rfl⟩

theorem witness_BuildNeverChanges : step decoded12 = .next decoded12 := rfl

theorem witness_ChecksumIsTheSum : 0 ≤ 0 ∧ 0 ≤ 10 := by decide

theorem witness_ChecksumNeverWraps : (List.replicate 16 0xFF#8).length ≤ 16 ∧ Inv (loaded reply12) :=
  ⟨by decide, inv_loaded12⟩

theorem witness_ChecksumBlindSpots :
    [0x01#8, 0x02#8].Perm [0x02#8, 0x01#8] ∧ (0x32#8).toNat + (0x19#8).toNat = (0x33#8).toNat + (0x18#8).toNat :=
  ⟨List.Perm.swap _ _ _, by decide⟩

/-- The first and the last byte, the lowest and the highest bit. -/
theorem witness_SingleBitErrorsAreDetected :
    Inv (loaded reply12) ∧ 6 ≤ (loaded reply12).rxlen.toNat ∧ exec .decode (loaded reply12) = .next decoded12 ∧
    decoded12.status = 0#8 ∧ 0 < (loaded reply12).rxlen.toNat ∧ 11 < (loaded reply12).rxlen.toNat ∧ 0 < 8 ∧ 7 < 8 :=
  ⟨inv_loaded12, by decide, rfl, by decide, by decide, by decide, by decide, by decide⟩

theorem witness_StartDelimiterRoundTrips :
    (1 ≤ (1#5).toNat ∧ (1#5).toNat ≤ 16) ∧ 1 ≤ (16#5).toNat ∧ (16#5).toNat ≤ 16 := by decide

theorem witness_LoopedBackFramesVerify :
    (Inv (staged [0x07#8] 1) ∧ 1 ≤ (1#5).toNat ∧ (1#5).toNat ≤ 16 ∧
      exec (.encc 0x36#8 1#5) (staged [0x07#8] 1) = .next (after (.encc 0x36#8 1#5) (staged [0x07#8] 1)) ∧
      1 ≤ (staged [0x07#8] 1).plen.val) ∧
    (Inv State.reset ∧ exec (.encq 0x47#8 16#5) State.reset = .next (after (.encq 0x47#8 16#5) State.reset)) ∧
    (exec (.encc 0x47#8 16#5) State.reset = .next (after (.encc 0x47#8 16#5) State.reset) ∧
      State.reset.plen.val = 0) :=
  ⟨⟨inv_staged, by decide, by decide, rfl, by decide⟩, ⟨inv_reset, rfl⟩, ⟨rfl, rfl⟩⟩

theorem witness_RxloadStoresTheReply :
    Inv State.reset ∧ ([] : List Byte).length ≤ State.reset.rxCap ∧ reply22.length ≤ State.reset.rxCap :=
  ⟨inv_reset, by decide, by decide⟩

theorem witness_ControlLineBuildsItsTelegram :
    (AsmLine.control 255 1 []).wf State.reset.rxCap = true ∧
    (AsmLine.control 0 16 (List.replicate 16 255)).wf State.reset.rxCap = true ∧ 1 ≤ 1 ∧ 16 ≤ 16 := by decide

theorem witness_PseudoInstructionsExpand :
    (AsmLine.control 255 31 (List.replicate 16 255)).wf 22 = true ∧ 16 < (List.replicate 17 0).length ∧
    65535 < 65536 ∧ 65536 ≤ 65536 ∧ (AsmLine.rxload (List.replicate 22 255)).wf 22 = true ∧
    22 < (List.replicate 23 0).length := by decide

theorem witness_SetpointBytesAreBigEndian :
    (1 ≤ (1#5).toNat ∧ (1#5).toNat ≤ 16) ∧ 1 ≤ (16#5).toNat ∧ (16#5).toNat ≤ 16 := by decide

/-- The last byte of a query and of the largest control telegram. -/
theorem witness_SendReadsReturnTheFrame :
    4 < (after (.encq 0x47#8 6#5) State.reset).txlen.val ∧
    20 < (after (.encc 0x47#8 6#5) (staged [] 16)).txlen.val := by decide

theorem witness_ObjectQueriesEncode :
    ObjectId.deviceType.query = some (.encq 0x00#8 16#5) ∧ ObjectId.actualStatus.query = some (.encq 0x47#8 6#5) := by
  decide

/-- The reset state with the host about to receive a reply. -/
def receiving (reply : List Byte) : State := { State.reset with pending := receiveActions reply ++ [] }

theorem witness_ReceiveExchangeDecodesTheReply :
    (Inv (receiving reply6) ∧ 6 ≤ reply6.length ∧ reply6.length ≤ (receiving reply6).rxCap ∧
      (receiving reply6).pending = receiveActions reply6 ++ []) ∧
    (Inv (receiving reply22) ∧ reply22.length ≤ (receiving reply22).rxCap) :=
  ⟨⟨⟨inv_reset.1, inv_reset.2, inv_reset.3, inv_reset.4, inv_reset.5, inv_reset.6, inv_reset.7, inv_reset.8,
      inv_reset.9, inv_reset.10, inv_reset.11⟩, by decide, by decide, rfl⟩,
    ⟨inv_reset.1, inv_reset.2, inv_reset.3, inv_reset.4, inv_reset.5, inv_reset.6, inv_reset.7, inv_reset.8,
      inv_reset.9, inv_reset.10, inv_reset.11⟩, by decide⟩

end Sys2Proof.Tests
end

