-- ==== Sys2Proof/Proofs/Scope.lean ====
section
/-! PROOFS. The scope family (spec/00_scope.md rule R6): no step changes the build, and the state after reset is
legal for every build. -/

namespace Sys2Proof.Machine

/-! ### What a command leaves of the model's own fields (R45, R172) -/

/-- If the result is a next state, the build parameter and the host's side are those of s. -/
def KeepsHost (s : State) (r : Result) : Prop := ∀ t, r = .next t → SameHost s t

@[simp] theorem keepsHost_next_iff {s t : State} : KeepsHost s (.next t) ↔ SameHost s t :=
  ⟨fun h => h t rfl, fun h _ e => next_inj.1 e ▸ h⟩

@[simp] theorem keepsHost_fault (s : State) (f : Fault) : KeepsHost s (.fault f) := fun _ h => nomatch h

theorem encodeTelegram_keepsHost (tt : BitVec 2) (obj : Byte) (len : BitVec 5) (ps : List Byte) (n : Fin 22)
    (s : State) : KeepsHost s (encodeTelegram tt obj len ps n s) := by
  rcases encodeTelegram_cases tt obj len ps n s with ⟨_, e⟩ | ⟨_, e⟩ <;> simp [e, SameHost]

theorem execPpush_keepsHost (b : BitVec 8) (s : State) : KeepsHost s (execPpush b s) := by
  rcases execPpush_cases b s with ⟨_, e⟩ | ⟨_, e⟩ <;> simp [e, SameHost]

theorem execRxpush_keepsHost (b : BitVec 8) (s : State) : KeepsHost s (execRxpush b s) := by
  rcases execRxpush_cases b s with ⟨_, e⟩ | ⟨_, e⟩ | ⟨_, e⟩ <;> simp [e, SameHost]

theorem execDecode_keepsHost (s : State) : KeepsHost s (execDecode s) := by
  rcases execDecode_cases s with ⟨_, e⟩ | ⟨_, _, e⟩ | ⟨_, _, _, e⟩ | ⟨_, _, _, e⟩ <;> simp [e, SameHost]

theorem readField_keepsHost (k : BitVec 8) (width : Nat) (v : Memory → Nat → BitVec 32) (s : State) :
    KeepsHost s (readField k width v s) := by
  rcases readField_cases k width v s with ⟨_, e⟩ | ⟨_, _, e⟩ | ⟨_, _, _, e⟩ | ⟨_, _, _, e⟩ <;> simp [e, SameHost]

theorem execRds_keepsHost (s : State) : KeepsHost s (execRds s) := by
  rcases execRds_cases s with ⟨_, e⟩ | ⟨_, _, e⟩ | ⟨_, _, e⟩ <;> simp [e, SameHost]

/-- No command writes the build parameter or the host's side (R45, R172). -/
theorem exec_keepsHost (i : Instr) (s : State) : KeepsHost s (exec i s) := by
  cases i with
  | nop => exact keepsHost_next_iff.2 ⟨rfl, rfl, rfl⟩
  | encq obj len => exact encodeTelegram_keepsHost _ _ _ _ _ s
  | encc obj len => exact encodeTelegram_keepsHost _ _ _ _ _ s
  | pclr => exact keepsHost_next_iff.2 ⟨rfl, rfl, rfl⟩
  | ppush b => exact execPpush_keepsHost b s
  | rxclr => exact keepsHost_next_iff.2 ⟨rfl, rfl, rfl⟩
  | rxpush b => exact execRxpush_keepsHost b s
  | decode => exact execDecode_keepsHost s
  | rdb k =>
    rw [exec, execRdb]
    exact readField_keepsHost k 1 _ s
  | rdw k =>
    rw [exec, execRdw]
    exact readField_keepsHost k 2 _ s
  | rdf k =>
    rw [exec, execRdf]
    exact readField_keepsHost k 4 _ s
  | rds => exact execRds_keepsHost s

/-- No command word writes them either, legal or not (R171). -/
theorem hostCommand_keepsHost (w : CommandWord) (s : State) : KeepsHost s (hostCommand w s) := by
  rcases hostCommand_cases w s with ⟨i, _, e⟩ | ⟨_, _, e⟩
  · rw [e]
    exact exec_keepsHost i s
  · simp [e, SameHost]

/-- Settles O37, by the four things a step can be: only a command runs the TCE, and the idle step, the read and the
reset keep the build by their own updates. -/
theorem buildNeverChanges : Obligations.BuildNeverChanges := by
  intro s t h
  rcases step_cases s with ⟨_, idle⟩ | ⟨w, rest, _, command⟩ | ⟨r, rest, _, read⟩ | ⟨rest, _, reset⟩
  · obtain rfl := next_inj.1 (idle.symm.trans h)
    rfl
  · obtain ⟨hcap, _, _⟩ := hostCommand_keepsHost w (s.setPending rest) t (command.symm.trans h)
    exact hcap
  · obtain rfl := next_inj.1 (read.symm.trans h)
    rfl
  · obtain rfl := next_inj.1 (reset.symm.trans h)
    exact hostReset_rxCap _

/-! ### The legal states after reset (R200, R201) -/

/-- The state after power-on is legal exactly for the builds R6 allows. -/
theorem inv_powerOn_iff (cap : Nat) : Inv (State.powerOn cap) ↔ 22 ≤ cap ∧ cap ≤ 128 where
  mp h := h.rxCap_range
  mpr h :=
    { rxCap_range := h
      txbuf_wf := Memory.nil_wf _
      param_wf := Memory.nil_wf _
      rxbuf_wf := Memory.nil_wf _
      txlen_legal := .inl rfl
      txbuf_zero_past := fun _ _ => rfl
      rxlen_le := Nat.zero_le cap
      sticky_clear := BitVec.zero_and
      status_legal := ⟨.ok, by decide, rfl⟩
      decoded_absent := fun _ => ⟨rfl, rfl, rfl, rfl, rfl, rfl, rfl, rfl⟩
      decoded_present := fun h => absurd h (by simp) }

/-- Legality does not look at the host's side of the interface. -/
theorem Inv.withHost {s : State} (h : Inv s) (acts : List HostAction) (reply : Option (BitVec 32)) :
    Inv { s with pending := acts, readReply := reply } where
  rxCap_range := h.rxCap_range
  txbuf_wf := h.txbuf_wf
  param_wf := h.param_wf
  rxbuf_wf := h.rxbuf_wf
  txlen_legal := h.txlen_legal
  txbuf_zero_past := h.txbuf_zero_past
  rxlen_le := h.rxlen_le
  sticky_clear := h.sticky_clear
  status_legal := h.status_legal
  decoded_absent := h.decoded_absent
  decoded_present := h.decoded_present

/-- HostReset is power-on but for the host's side, so all it needs of the state before is a build R6 allows. -/
theorem inv_hostReset {s : State} (h : 22 ≤ s.rxCap ∧ s.rxCap ≤ 128) : Inv (hostReset s) :=
  ((inv_powerOn_iff s.rxCap).2 h).withHost s.pending s.readReply

/-- Settles O32: power-on of each build is legal, the initial state is that of the default build, and HostReset keeps
the build of a legal state. -/
theorem resetIsLegal : Obligations.ResetIsLegal :=
  ⟨(inv_powerOn_iff Config.rxCapDefault).2 (by decide),
    fun cap hmin hmax => (inv_powerOn_iff cap).2 ⟨hmin, hmax⟩,
    fun _ h => inv_hostReset h.rxCap_range⟩

end Sys2Proof.Machine
end

