-- ==== Sys2Proof/Proofs/State.lean ====
section
/-! PROOFS. The state family (spec/10_state.md): what each command can leave, who writes which register, the legal
states as an invariant of the step, the register view, and that the host side and the checksum's verdict are not
looked at. -/

namespace Sys2Proof.Machine

/-! ### Everything a command can leave -/

/-- The states a command can leave when it answers one, each with the guard under which it does: an error reported
through `raise`, or the writes of the command. Which error, which frame an encode writes and which value a field read
takes are left open: no invariant of this family asks for them. -/
inductive CommandEffect (s : State) : Instr → State → Prop where
  | reported {i : Instr} {e : StatusCode} (hok : e ≠ .ok) (hdev : e ≠ .deviceError) : CommandEffect s i (s.raised e)
  | nop : CommandEffect s .nop (s.completed .ok)
  | encoded {i : Instr} {obj : Byte} {len : BitVec 5} (hi : i = .encq obj len ∨ i = .encc obj len)
      (hlen : lenLegal len = true) (tt : BitVec 2) (ps : List Byte) (n : Fin 22) (hn : n.val = ps.length + 5) :
      CommandEffect s i ((s.setTx (s.txbuf.writeBytes 0 (txImage (outFrame tt obj len ps))) n).completed .ok)
  | pclr : CommandEffect s .pclr ((s.setPlen 0).completed .ok)
  | ppush (b : Byte) (h : s.plen.val < 16) : CommandEffect s (.ppush b)
      ((s.setParam (s.param.write s.plen.val b) ⟨s.plen.val + 1, Nat.succ_lt_succ h⟩).completed .ok)
  | rxclr : CommandEffect s .rxclr (s.emptyRx.clearRx.completed .ok)
  | overflowed (b : Byte) (h : s.rxlen.toNat = s.rxCap) :
      CommandEffect s (.rxpush b) (s.markOvf.clearRx.completed .errRxOvf)
  | appended (b : Byte) (h : s.rxlen.toNat < s.rxCap) : CommandEffect s (.rxpush b)
      ((s.setRx (s.rxbuf.write s.rxlen.toNat b) (s.rxlen + 1#8)).clearRx.completed .ok)
  | decoded (hovf : s.rxOvf = false) (hmin : 6 ≤ s.rxlen.toNat) :
      CommandEffect s .decode ((s.setDecoded s.rxlen.toNat (s.rxbuf.recvChecksum s.rxlen.toNat)
        (s.rxbuf.calcChecksum s.rxlen.toNat)).completed
          (if s.rxbuf.frameValid s.rxlen.toNat then .ok else .cksumBad))
  | fieldRead {i : Instr} (hi : isFieldRead i = true) (hp : s.rxPresent = true) (v : BitVec 32) :
      CommandEffect s i ((s.setResult v).completed .ok)

/-- A computation that answers a state some effect leaves, answers no other. -/
theorem CommandEffect.of_next {i : Instr} {r : Result} {s t u : State} (effect : CommandEffect s i u)
    (e : r = .next u) (h : r = .next t) : CommandEffect s i t :=
  next_inj.1 (e.symm.trans h) ▸ effect

theorem encodeTelegram_effect {i : Instr} {obj : Byte} {len : BitVec 5} (hi : i = .encq obj len ∨ i = .encc obj len)
    {tt : BitVec 2} {ps : List Byte} {n : Fin 22} (hn : n.val = ps.length + 5) {s t : State}
    (h : encodeTelegram tt obj len ps n s = .next t) : CommandEffect s i t := by
  rcases encodeTelegram_cases tt obj len ps n s with ⟨hlen, e⟩ | ⟨_, e⟩
  · exact .of_next (.encoded hi hlen tt ps n hn) e h
  · exact .of_next (.reported (by decide) (by decide)) e h

theorem execPpush_effect {b : Byte} {s t : State} (h : execPpush b s = .next t) : CommandEffect s (.ppush b) t := by
  rcases execPpush_cases b s with ⟨hlt, e⟩ | ⟨_, e⟩
  · exact .of_next (.ppush b hlt) e h
  · exact .of_next (.reported (by decide) (by decide)) e h

theorem execRxpush_effect {b : Byte} {s t : State} (h : execRxpush b s = .next t) : CommandEffect s (.rxpush b) t := by
  rcases execRxpush_cases b s with ⟨hfull, e⟩ | ⟨_, e⟩ | ⟨hlt, e⟩
  · exact .of_next (.overflowed b hfull) e h
  · exact nomatch e.symm.trans h
  · exact .of_next (.appended b hlt) e h

theorem execDecode_effect {s t : State} (h : execDecode s = .next t) : CommandEffect s .decode t := by
  rcases execDecode_cases s with ⟨_, e⟩ | ⟨_, _, e⟩ | ⟨_, _, _, e⟩ | ⟨hovf, hmin, _, e⟩
  · exact .of_next (.reported (by decide) (by decide)) e h
  · exact .of_next (.reported (by decide) (by decide)) e h
  · exact nomatch e.symm.trans h
  · exact .of_next (.decoded hovf hmin) e h

theorem readField_effect {i : Instr} (hi : isFieldRead i = true) {k : BitVec 8} {width : Nat}
    {v : Memory → Nat → BitVec 32} {s t : State} (h : readField k width v s = .next t) : CommandEffect s i t := by
  rcases readField_cases k width v s with ⟨_, e⟩ | ⟨_, _, e⟩ | ⟨_, _, _, e⟩ | ⟨hp, _, _, e⟩
  · exact .of_next (.reported (by decide) (by decide)) e h
  · exact .of_next (.reported (by decide) (by decide)) e h
  · exact nomatch e.symm.trans h
  · exact .of_next (.fieldRead hi hp _) e h

theorem execRds_effect {s t : State} (h : execRds s = .next t) : CommandEffect s .rds t := by
  rcases execRds_cases s with ⟨_, e⟩ | ⟨_, _, e⟩ | ⟨hp, _, e⟩
  · exact .of_next (.reported (by decide) (by decide)) e h
  · exact nomatch e.symm.trans h
  · exact .of_next (.fieldRead rfl hp _) e h

/-- A command that answers a next state leaves one of the effects above. -/
theorem exec_effect {i : Instr} {s t : State} (h : exec i s = .next t) : CommandEffect s i t := by
  cases i with
  | nop => exact .of_next .nop rfl h
  | encq obj len => exact encodeTelegram_effect (.inl rfl) rfl h
  | encc obj len => exact encodeTelegram_effect (.inr rfl) (by simp [Nat.add_comm]) h
  | pclr => exact .of_next .pclr rfl h
  | ppush b => exact execPpush_effect h
  | rxclr => exact .of_next .rxclr rfl h
  | rxpush b => exact execRxpush_effect h
  | decode => exact execDecode_effect h
  | rdb k =>
    rw [exec, execRdb] at h
    exact readField_effect rfl h
  | rdw k =>
    rw [exec, execRdw] at h
    exact readField_effect rfl h
  | rdf k =>
    rw [exec, execRdf] at h
    exact readField_effect rfl h
  | rds => exact execRds_effect h

/-- What the host's own fields, a reset, an illegal word and every command keep, every step keeps. -/
theorem step_keeps {P : State → Prop}
    (host : ∀ s acts reply, P s → P { s with pending := acts, readReply := reply })
    (reset : ∀ s, P s → P (hostReset s))
    (illegal : ∀ s, P s → P (s.raised .errIllegal))
    (command : ∀ i s t, P s → CommandEffect s i t → P t)
    {s t : State} (hs : P s) (h : step s = .next t) : P t := by
  have taken (rest : List HostAction) : P (s.setPending rest) := host s rest s.readReply hs
  rcases step_cases s with ⟨_, e⟩ | ⟨w, rest, _, e⟩ | ⟨r, rest, _, e⟩ | ⟨rest, _, e⟩
  · obtain rfl := next_inj.1 (e.symm.trans h)
    exact hs
  · rcases hostCommand_cases w (s.setPending rest) with ⟨i, _, e'⟩ | ⟨_, _, e'⟩
    · exact command i _ t (taken rest) (exec_effect (e'.symm.trans (e.symm.trans h)))
    · obtain rfl := next_inj.1 (e'.symm.trans (e.symm.trans h))
      exact illegal _ (taken rest)
  · obtain rfl := next_inj.1 (e.symm.trans h)
    exact host s rest (some (hostRead (s.setPending rest) r)) hs
  · obtain rfl := next_inj.1 (e.symm.trans h)
    exact reset _ (taken rest)

/-! ### Each update keeps the state legal (R24, R29, R39, R44) -/

/-- On the codes that `raise` reports, it writes what `complete` writes (R182, R183). -/
theorem State.raised_eq_completed {e : StatusCode} (h : e ≠ .ok) (s : State) : s.raised e = s.completed e := by
  rw [State.completed, stickyAfter_error h, State.raised]

/-- The bits R22 and R197 keep clear stay clear under every code but DEVICE_ERROR. -/
theorem stickyAfter_clear {e : StatusCode} (hdev : e ≠ .deviceError) {v : BitVec 32} (hv : v &&& 0xFFFFFE01#32 = 0#32) :
    stickyAfter e v &&& 0xFFFFFE01#32 = 0#32 := by
  by_cases hok : e = .ok
  · rw [hok, stickyAfter_ok, hv]
  · have hbit : e.bit &&& 0xFFFFFE01#32 = 0#32 := by
      revert hok hdev
      cases e <;> decide
    rw [stickyAfter_error hok, BitVec.and_or_distrib_right, hv, hbit, BitVec.or_self]

theorem Inv.completed {s : State} (h : Inv s) {e : StatusCode} (hdev : e ≠ .deviceError) : Inv (s.completed e) :=
  { h with
    sticky_clear := stickyAfter_clear hdev h.sticky_clear
    status_legal := ⟨e, hdev, rfl⟩ }

theorem Inv.raised {s : State} (h : Inv s) {e : StatusCode} (hok : e ≠ .ok) (hdev : e ≠ .deviceError) :
    Inv (s.raised e) :=
  State.raised_eq_completed hok s ▸ h.completed hdev

theorem Inv.setResult {s : State} (h : Inv s) (v : BitVec 32) : Inv (s.setResult v) := { h with }

theorem Inv.setPlen {s : State} (h : Inv s) (n : Fin 17) : Inv (s.setPlen n) := { h with }

theorem Inv.setParam {s : State} (h : Inv s) (n : Fin 17) {i : Nat} (hi : i < 16) (b : Byte) :
    Inv (s.setParam (s.param.write i b) n) :=
  { h with param_wf := Memory.write_wf b hi h.param_wf }

/-- An encode rewrites all of TXBUF: behind the frame it writes 0x00 up to index 20 (R24, D15). -/
theorem Inv.setTx {s : State} (h : Inv s) {frame : List Byte} {n : Fin 22} (hn : n.val = frame.length)
    (hmin : 5 ≤ n.val) : Inv (s.setTx (s.txbuf.writeBytes 0 (txImage frame)) n) := by
  have hlen : (txImage frame).length = 21 := txImage_length (by omega)
  refine { h with txbuf_wf := ?_, txlen_legal := .inr hmin, txbuf_zero_past := fun i hi => ?_ }
  · exact Memory.writeBytes_wf (by rw [hlen]) h.txbuf_wf
  · have hi : frame.length ≤ i := hn ▸ hi
    rw [State.setTx_txbuf, Memory.read_writeBytes, hlen]
    split
    · exact txImage_getD_past hi
    · next past => exact Memory.read_outside h.txbuf_wf (by rw [txMax_eq]; omega)

theorem Inv.clearRx {s : State} (h : Inv s) : Inv s.clearRx :=
  { h with
    decoded_absent := fun _ => ⟨rfl, rfl, rfl, rfl, rfl, rfl, rfl, rfl⟩
    decoded_present := fun hp => nomatch hp }

theorem Inv.markOvf {s : State} (h : Inv s) : Inv s.markOvf := { h with }

/-- With no telegram decoded, R39 asks nothing of RXLEN, so it may be set to 0. -/
theorem Inv.emptyRx {s : State} (h : Inv s) (hp : s.rxPresent = false) : Inv s.emptyRx :=
  { h with
    rxlen_le := Nat.zero_le _
    decoded_present := fun hp' => nomatch hp.symm.trans hp' }

/-- With no telegram decoded, a byte may be appended below the capacity (R29, R39). -/
theorem Inv.appendRx {s : State} (h : Inv s) (hp : s.rxPresent = false) (hlt : s.rxlen.toNat < s.rxCap) (b : Byte) :
    Inv (s.setRx (s.rxbuf.write s.rxlen.toNat b) (s.rxlen + 1#8)) := by
  refine { h with
    rxbuf_wf := Memory.write_wf b hlt h.rxbuf_wf
    rxlen_le := ?_
    decoded_present := fun hp' => nomatch hp.symm.trans hp' }
  show (s.rxlen + 1#8).toNat ≤ s.rxCap
  rw [BitVec.toNat_add]
  exact (Nat.mod_le _ _).trans hlt

/-- DECODE sets RX_DLEN to RXLEN - 6 without loss, and RX_VALID to the comparison of the two checksums (R39). -/
theorem Inv.setDecoded {s : State} (h : Inv s) (hmin : 6 ≤ s.rxlen.toNat) (recv computed : Half) :
    Inv (s.setDecoded s.rxlen.toNat recv computed) :=
  { h with
    decoded_absent := fun hp => nomatch hp
    decoded_present := fun _ => by
      refine ⟨BEq.comm, ?_⟩
      have := s.rxlen.isLt
      simp only [State.setDecoded_rxDlen, State.setDecoded_rxlen, BitVec.toNat_ofNat, minRx_eq, dataOff_eq]
      omega }

/-- Every command leads from a legal state to a legal one. The receive commands withdraw the telegram, and it makes no
difference whether they do so before or after they write RXLEN. -/
theorem CommandEffect.inv {i : Instr} {s t : State} (h : CommandEffect s i t) (hs : Inv s) : Inv t := by
  cases h with
  | reported hok hdev => exact hs.raised hok hdev
  | nop => exact hs.completed (by decide)
  | encoded _ _ tt ps n hn =>
    exact (hs.setTx (hn.trans (outFrame_length ..).symm) (by omega)).completed (by decide)
  | pclr => exact (hs.setPlen 0).completed (by decide)
  | ppush b hlt => exact (hs.setParam _ hlt b).completed (by decide)
  | rxclr => exact (hs.clearRx.emptyRx rfl).completed (by decide)
  | overflowed b _ => exact hs.markOvf.clearRx.completed (by decide)
  | appended b hlt => exact (hs.clearRx.appendRx rfl hlt b).completed (by decide)
  | decoded _ hmin => exact (hs.setDecoded hmin _ _).completed (by split <;> decide)
  | fieldRead _ _ v => exact (hs.setResult v).completed (by decide)

/-- Settles O33, by what a step can be: every command, an illegal word, a read and a reset keep each part of `Inv`. -/
theorem everyStepKeepsTheStateLegal : Obligations.EveryStepKeepsTheStateLegal := fun _ _ =>
  step_keeps
    (host := fun _ acts reply h => h.withHost acts reply)
    (reset := fun _ h => inv_hostReset h.rxCap_range)
    (illegal := fun _ h => h.raised (by decide) (by decide))
    (command := fun _ _ _ hs h => h.inv hs)

/-! ### The decoded registers describe RXBUF (R31, R133) -/

/-- With no telegram decoded and no overflow, there is nothing for the registers to describe. -/
theorem DescribesRxbuf.of_absent {s : State} (hp : s.rxPresent = false) (hovf : s.rxOvf = false) : DescribesRxbuf s where
  telegram hp' := nomatch hp.symm.trans hp'
  overflow hovf' := nomatch hovf.symm.trans hovf'

/-- The commands outside the receive side leave the registers and RXBUF alone; RXCLR and RXPUSH withdraw the telegram;
DECODE reads its registers off RXBUF. -/
theorem CommandEffect.describesRxbuf {i : Instr} {s t : State} (h : CommandEffect s i t) (hs : DescribesRxbuf s) :
    DescribesRxbuf t := by
  cases h with
  | rxclr => exact .of_absent rfl rfl
  | overflowed b hfull => exact ⟨fun hp => (nomatch hp), fun _ => ⟨hfull, rfl⟩⟩
  | appended b hlt =>
    have hovf : s.rxOvf = false := by
      by_contra hovf
      obtain ⟨hfull, _⟩ := hs.overflow (Bool.not_eq_false _ ▸ hovf)
      omega
    exact .of_absent rfl hovf
  | decoded hovf _ => exact ⟨fun _ => ⟨rfl, rfl, rfl, rfl, rfl⟩, fun hovf' => nomatch hovf.symm.trans hovf'⟩
  | _ => exact ⟨hs.telegram, hs.overflow⟩

/-- Settles O35, by what a step can be: after power-on and a reset no telegram is decoded, and every command keeps the
description. -/
theorem decodedRegistersDescribeRxbuf : Obligations.DecodedRegistersDescribeRxbuf :=
  ⟨fun _ => .of_absent rfl rfl, fun _ _ _ =>
    step_keeps
      (host := fun _ _ _ h => ⟨h.telegram, h.overflow⟩)
      (reset := fun _ _ => .of_absent rfl rfl)
      (illegal := fun _ h => ⟨h.telegram, h.overflow⟩)
      (command := fun _ _ _ hs h => h.describesRxbuf hs)⟩

/-! ### Who writes what (R21 to R38) -/

section
variable {i : Instr} {s t : State} (h : CommandEffect s i t)
include h

theorem CommandEffect.result_writer (hne : t.result ≠ s.result) : isFieldRead i = true ∧ t.status = 0x00#8 := by
  cases h with
  | fieldRead hi v => exact ⟨hi, rfl⟩
  | _ => exact absurd rfl hne

theorem CommandEffect.tx_writer (hne : ¬ SameTx s t) :
    ∃ obj len, (i = .encq obj len ∨ i = .encc obj len) ∧ t.status = 0x00#8 := by
  cases h with
  | encoded hi => exact ⟨_, _, hi, rfl⟩
  | _ => exact absurd ⟨SameBytes.refl _, rfl⟩ hne

theorem CommandEffect.param_writer (hne : ¬ SameBytes s.param t.param) : ∃ b, i = .ppush b := by
  cases h with
  | ppush b => exact ⟨b, rfl⟩
  | _ => exact absurd (SameBytes.refl _) hne

theorem CommandEffect.plen_writer (hne : t.plen ≠ s.plen) : i = .pclr ∨ ∃ b, i = .ppush b := by
  cases h with
  | pclr => exact .inl rfl
  | ppush b => exact .inr ⟨b, rfl⟩
  | _ => exact absurd rfl hne

theorem CommandEffect.rxbuf_writer (hne : ¬ SameBytes s.rxbuf t.rxbuf) : ∃ b, i = .rxpush b := by
  cases h with
  | appended b => exact ⟨b, rfl⟩
  | _ => exact absurd (SameBytes.refl _) hne

theorem CommandEffect.rxlen_writer (hne : t.rxlen ≠ s.rxlen) : i = .rxclr ∨ ∃ b, i = .rxpush b := by
  cases h with
  | rxclr => exact .inl rfl
  | appended b => exact .inr ⟨b, rfl⟩
  | _ => exact absurd rfl hne

theorem CommandEffect.rxOvf_setter (hset : t.rxOvf = true) (hclear : s.rxOvf = false) : ∃ b, i = .rxpush b := by
  cases h with
  | rxclr => exact nomatch hset
  | overflowed b => exact ⟨b, rfl⟩
  | _ => exact nomatch hclear.symm.trans hset

theorem CommandEffect.rxOvf_clearer (hclear : t.rxOvf = false) (hset : s.rxOvf = true) : i = .rxclr := by
  cases h with
  | rxclr => rfl
  | overflowed b => exact nomatch hclear
  | _ => exact nomatch hset.symm.trans hclear

theorem CommandEffect.decoded_writer (hne : ¬ SameDecoded s t) : i = .decode ∨ i = .rxclr ∨ ∃ b, i = .rxpush b := by
  cases h with
  | decoded => exact .inl rfl
  | rxclr => exact .inr (.inl rfl)
  | overflowed b => exact .inr (.inr ⟨b, rfl⟩)
  | appended b => exact .inr (.inr ⟨b, rfl⟩)
  | _ => exact absurd ⟨rfl, rfl, rfl, rfl, rfl, rfl, rfl, rfl⟩ hne

end

/-- Settles O24, by the effects a command can have: one lemma per part of the state finds those that write it. -/
theorem onlyItsOwnCommandsWriteARegister : Obligations.OnlyItsOwnCommandsWriteARegister := fun i s t h =>
  have effect : CommandEffect s i t := exec_effect h
  ⟨effect.result_writer, effect.tx_writer, effect.param_writer, effect.plen_writer, effect.rxbuf_writer,
    effect.rxlen_writer, effect.rxOvf_setter, effect.rxOvf_clearer, effect.decoded_writer,
    exec_keepsHost i s t h⟩

/-! ### What a command does not look at (R32, R45, R66, R150, R172, R207) -/

/-- The answer with its next state, if it has one, changed by g. -/
def onNext (g : State → State) : Result → Result
  | .next s => .next (g s)
  | .fault r => .fault r
  | .refused r => .refused r

@[simp] theorem onNext_next (g : State → State) (s : State) : onNext g (.next s) = .next (g s) := rfl

@[simp] theorem onNext_fault (g : State → State) (f : Fault) : onNext g (.fault f) = .fault f := rfl

theorem onNext_ite (g : State → State) (c : Prop) [Decidable c] (a b : Result) :
    onNext g (if c then a else b) = if c then onNext g a else onNext g b := apply_ite ..

theorem onNext_dite (g : State → State) (c : Prop) [Decidable c] (a : c → Result) (b : ¬ c → Result) :
    onNext g (dite c a b) = dite c (fun h => onNext g (a h)) (fun h => onNext g (b h)) := apply_dite ..

/-- A change of the state that no field read looks at: it leaves the four parts a field read looks at, and it may as
well be made after the field read's own writes. -/
structure UnseenByFieldReads (g : State → State) : Prop where
  rxPresent : ∀ s, (g s).rxPresent = s.rxPresent
  rxDlen : ∀ s, (g s).rxDlen = s.rxDlen
  rxbuf : ∀ s, (g s).rxbuf = s.rxbuf
  rxCap : ∀ s, (g s).rxCap = s.rxCap
  raised : ∀ e s, (g s).raised e = g (s.raised e)
  completed : ∀ e v s, ((g s).setResult v).completed e = g ((s.setResult v).completed e)

theorem readField_unseen {g : State → State} (hg : UnseenByFieldReads g) (k : BitVec 8) (width : Nat)
    (v : Memory → Nat → BitVec 32) (s : State) : readField k width v (g s) = onNext g (readField k width v s) := by
  have check : dataCheck k width (g s) = dataCheck k width s := by
    rw [dataCheck, dataCheck, hg.rxPresent, hg.rxDlen]
  rw [readField, readField, check, hg.rxCap, hg.rxbuf]
  cases dataCheck k width s with
  | some e => simp [hg.raised]
  | none => simp [onNext_ite, hg.completed]

theorem execRds_unseen {g : State → State} (hg : UnseenByFieldReads g) (s : State) :
    execRds (g s) = onNext g (execRds s) := by
  rw [execRds, execRds, hg.rxPresent, hg.rxDlen, hg.rxCap, hg.rxbuf]
  simp [onNext_ite, hg.raised, hg.completed]

theorem exec_fieldRead_unseen {g : State → State} (hg : UnseenByFieldReads g) {i : Instr} (hi : isFieldRead i = true)
    (s : State) : exec i (g s) = onNext g (exec i s) := by
  cases i with
  | rdb k =>
    rw [exec, exec, execRdb, execRdb]
    exact readField_unseen hg k 1 _ s
  | rdw k =>
    rw [exec, exec, execRdw, execRdw]
    exact readField_unseen hg k 2 _ s
  | rdf k =>
    rw [exec, exec, execRdf, execRdf]
    exact readField_unseen hg k 4 _ s
  | rds => exact execRds_unseen hg s
  | _ => exact nomatch hi

/-- The state with another verdict on the checksum: RX_VALID, CK_RECV and CK_CALC. -/
def State.setVerdict (v : Bool) (a b : Half) (s : State) : State := { s with rxValid := v, ckRecv := a, ckCalc := b }

theorem setVerdict_unseen (v : Bool) (a b : Half) : UnseenByFieldReads (State.setVerdict v a b) where
  rxPresent _ := rfl
  rxDlen _ := rfl
  rxbuf _ := rfl
  rxCap _ := rfl
  raised _ _ := rfl
  completed _ _ _ := rfl

/-- Settles O29: the verdict is nothing a field read looks at. -/
theorem fieldReadsIgnoreTheChecksum : Obligations.FieldReadsIgnoreTheChecksum := fun _ s _ v a b hi h =>
  (exec_fieldRead_unseen (setVerdict_unseen v a b) hi s).trans (congrArg (onNext _) h)

/-- The state with another host side: the actions to come and the last reply (notes 2, 3). -/
def State.setHost (acts : List HostAction) (reply : Option (BitVec 32)) (s : State) : State :=
  { s with pending := acts, readReply := reply }

section
variable (acts : List HostAction) (reply : Option (BitVec 32)) (s : State)

theorem setHost_unseen : UnseenByFieldReads (State.setHost acts reply) where
  rxPresent _ := rfl
  rxDlen _ := rfl
  rxbuf _ := rfl
  rxCap _ := rfl
  raised _ _ := rfl
  completed _ _ _ := rfl

theorem encodeTelegram_setHost (tt : BitVec 2) (obj : Byte) (len : BitVec 5) (ps : List Byte) (n : Fin 22) :
    encodeTelegram tt obj len ps n (s.setHost acts reply) =
      onNext (State.setHost acts reply) (encodeTelegram tt obj len ps n s) := by
  unfold encodeTelegram
  rw [onNext_ite]
  rfl

theorem execPpush_setHost (b : BitVec 8) :
    execPpush b (s.setHost acts reply) = onNext (State.setHost acts reply) (execPpush b s) := by
  unfold execPpush
  rw [onNext_dite]
  rfl

theorem execRxpush_setHost (b : BitVec 8) :
    execRxpush b (s.setHost acts reply) = onNext (State.setHost acts reply) (execRxpush b s) := by
  unfold execRxpush
  rw [onNext_ite, onNext_ite]
  rfl

theorem execDecode_setHost :
    execDecode (s.setHost acts reply) = onNext (State.setHost acts reply) (execDecode s) := by
  unfold execDecode
  rw [onNext_ite, onNext_ite, onNext_ite]
  rfl

/-- No command looks at the host side. -/
theorem exec_setHost (i : Instr) : exec i (s.setHost acts reply) = onNext (State.setHost acts reply) (exec i s) := by
  cases i with
  | nop => rfl
  | encq obj len => exact encodeTelegram_setHost acts reply s _ _ _ _ _
  | encc obj len => exact encodeTelegram_setHost acts reply s _ _ _ _ _
  | pclr => rfl
  | ppush b => exact execPpush_setHost acts reply s b
  | rxclr => rfl
  | rxpush b => exact execRxpush_setHost acts reply s b
  | decode => exact execDecode_setHost acts reply s
  | rdb k => exact exec_fieldRead_unseen (setHost_unseen acts reply) rfl s
  | rdw k => exact exec_fieldRead_unseen (setHost_unseen acts reply) rfl s
  | rdf k => exact exec_fieldRead_unseen (setHost_unseen acts reply) rfl s
  | rds => exact exec_fieldRead_unseen (setHost_unseen acts reply) rfl s

end

/-- Settles O28: no command looks at the host side, and none writes it. -/
theorem commandsIgnoreTheHostSide : Obligations.CommandsIgnoreTheHostSide := fun i s acts reply =>
  ⟨fun _ h => (exec_setHost acts reply s i).trans (congrArg (onNext _) h), fun t h =>
    have ⟨_, hpending, _⟩ := exec_keepsHost i s t h
    hpending⟩

/-! ### The register view (R40 to R43, R52) -/

section
variable (s : State) {r : BitVec 8}

theorem hostRead_scalar (h : r.toNat < 0x10) : hostRead s r = scalarRegister s r.toNat := if_pos h

theorem hostRead_txbuf (h : 0x20 ≤ r.toNat) (h' : r.toNat ≤ 0x34) :
    hostRead s r = (s.txbuf.read (r.toNat - 0x20)).setWidth 32 := by
  have h1 : ¬ r.toNat < 0x10 := by omega
  have h2 : r.toNat < 0x35 := by omega
  simp [hostRead, h1, h, h2]

theorem hostRead_param (h : 0x40 ≤ r.toNat) (h' : r.toNat ≤ 0x4F) :
    hostRead s r = (s.param.read (r.toNat - 0x40)).setWidth 32 := by
  have h1 : ¬ r.toNat < 0x10 := by omega
  have h2 : ¬ r.toNat < 0x35 := by omega
  have h3 : r.toNat < 0x50 := by omega
  simp [hostRead, h1, h, h2, h3]

theorem hostRead_rxbuf (h : 0x80 ≤ r.toNat) : hostRead s r =
    if r.toNat - 0x80 < s.rxCap then (s.rxbuf.read (r.toNat - 0x80)).setWidth 32 else 0#32 := by
  have h1 : ¬ r.toNat < 0x10 := by omega
  have h2 : ¬ r.toNat < 0x35 := by omega
  have h3 : ¬ r.toNat < 0x50 := by omega
  simp [hostRead, h1, h, h2, h3]

/-- The numbers between the scalar registers, TXBUF, PARAM and RXBUF are reserved and read 0 (R52). -/
theorem hostRead_reserved (h : 0x10 ≤ r.toNat ∧ r.toNat ≤ 0x1F ∨ 0x35 ≤ r.toNat ∧ r.toNat ≤ 0x3F ∨
    0x50 ≤ r.toNat ∧ r.toNat ≤ 0x7F) : hostRead s r = 0#32 := by
  have h1 : ¬ r.toNat < 0x10 := by omega
  have h2 : ¬ (0x20 ≤ r.toNat ∧ r.toNat < 0x35) := by omega
  have h3 : ¬ (0x40 ≤ r.toNat ∧ r.toNat < 0x50) := by omega
  have h4 : ¬ 0x80 ≤ r.toNat := by omega
  simp [hostRead, h1, h2, h3, h4]

theorem rxFlags_toNat : (rxFlags s).toNat =
    4 * (if s.rxOvf then 1 else 0) + 2 * (if s.rxValid then 1 else 0) + (if s.rxPresent then 1 else 0) := by
  rw [rxFlags]
  cases s.rxOvf <;> cases s.rxValid <;> cases s.rxPresent <;> rfl

theorem rxTt_toNat : (rxTt s).toNat = s.rxSd.toNat / 64 := by
  have := s.rxSd.isLt
  rw [rxTt, BitVec.toNat_setWidth, BitVec.extractLsb'_toNat, Nat.shiftRight_eq_div_pow]
  omega

theorem rxElen_toNat : (rxElen s).toNat = if s.rxPresent then s.rxSd.toNat % 16 + 1 else 0 := by
  unfold rxElen
  split
  · rw [BitVec.toNat_add, BitVec.toNat_setWidth, BitVec.extractLsb'_toNat]
    simp
    omega
  · rfl

/-- The three constants of CAPS are one number above the eight bits of RX_CAP (R42). -/
theorem caps_eq : caps s = BitVec.ofNat 32 s.rxCap ||| 0x10150400#32 := by
  rw [caps, BitVec.or_assoc, BitVec.or_assoc]
  rfl

theorem caps_toNat (h : s.rxCap ≤ 128) : (caps s).toNat = s.rxCap + 4 * 2 ^ 8 + 21 * 2 ^ 16 + 16 * 2 ^ 24 := by
  have disjoint := Nat.shiftLeft_add_eq_or_of_lt (show s.rxCap < 2 ^ 8 by omega) 0x101504
  rw [caps_eq, BitVec.toNat_or, BitVec.toNat_ofNat, Nat.mod_eq_of_lt (by omega), Nat.or_comm]
  exact disjoint.symm.trans (by omega)

/-- The register view does not look at the host side. -/
theorem hostRead_setReply (v : BitVec 32) (r : BitVec 8) : hostRead (s.setReply v) r = hostRead s r := by
  have scalar (n : Nat) : scalarRegister (s.setReply v) n = scalarRegister s n := by
    unfold scalarRegister
    split <;> rfl
  simp only [hostRead, scalar]
  rfl

end

/-- Settles O10, by one lemma per range of register numbers and one per packed register. -/
theorem hostReadFollowsTheRegisterMap : Obligations.HostReadFollowsTheRegisterMap := fun s hcap =>
  ⟨rfl, rfl, rfl, rfl, rfl, rfl, rxFlags_toNat s, rfl, rfl, rfl, rfl, rfl, rfl, rxTt_toNat s, rxElen_toNat s,
    caps_toNat s hcap,
    fun _ h h' => hostRead_reserved s (.inl ⟨h, h'⟩),
    fun _ => hostRead_txbuf s,
    fun _ h h' => hostRead_reserved s (.inr (.inl ⟨h, h'⟩)),
    fun _ => hostRead_param s,
    fun _ h h' => hostRead_reserved s (.inr (.inr ⟨h, h'⟩)),
    fun _ => hostRead_rxbuf s,
    fun r r' => ⟨rfl, hostRead_setReply s (hostRead s r) r'⟩⟩

/-- After power-on every scalar register but CAPS, number 0x0F, is 0 (R43). -/
theorem scalarRegister_powerOn (cap n : Nat) : scalarRegister (State.powerOn cap) n =
    if n = 0x0F then BitVec.ofNat 32 cap ||| 0x10150400#32 else 0#32 := by
  unfold scalarRegister
  split
  case h_7 => simp [rxFlags, flagBit]
  case h_14 => simp [rxTt]
  case h_16 => exact caps_eq (State.powerOn cap)
  case h_17 h => exact (if_neg h).symm
  all_goals rfl

/-- Settles O9: the scalar registers are as above, every buffer byte is 0, and the other numbers are reserved. -/
theorem resetRegisterView : Obligations.ResetRegisterView := by
  refine ⟨fun cap r _ _ => ?_, rfl⟩
  have number : r = 0x0F#8 ↔ r.toNat = 0x0F := BitVec.toNat_inj.symm
  simp only [number]
  by_cases scalar : r.toNat < 0x10
  · rw [hostRead_scalar _ scalar, scalarRegister_powerOn]
  · rw [if_neg (by omega)]
    have range : (0x10 ≤ r.toNat ∧ r.toNat ≤ 0x1F ∨ 0x35 ≤ r.toNat ∧ r.toNat ≤ 0x3F ∨
        0x50 ≤ r.toNat ∧ r.toNat ≤ 0x7F) ∨ (0x20 ≤ r.toNat ∧ r.toNat ≤ 0x34) ∨
        (0x40 ≤ r.toNat ∧ r.toNat ≤ 0x4F) ∨ 0x80 ≤ r.toNat := by omega
    rcases range with reserved | ⟨h, h'⟩ | ⟨h, h'⟩ | h
    · exact hostRead_reserved _ reserved
    · exact hostRead_txbuf _ h h'
    · exact hostRead_param _ h h'
    · rw [hostRead_rxbuf _ h]
      exact ite_self _

end Sys2Proof.Machine
end

