-- ==== Sys2Proof/Proofs/Memory.lean ====
section
/-! PROOFS. The memory and host interface family (spec/20_memory.md): MemRead, the step and the host's three actions,
precise errors, idempotent commands, and the two exchanges of R68. -/

namespace Sys2Proof.Machine

/-! ### MemRead and byte ranges (R54, R55) -/

/-- At any width, appended parts are the high part shifted past the low one. -/
theorem setWidth_append_eq_or {n m k : Nat} (x : BitVec n) (y : BitVec m) :
    (x ++ y).setWidth k = x.setWidth k <<< m ||| y.setWidth k := by
  apply BitVec.eq_of_getLsbD_eq
  intro i hi
  simp only [BitVec.getLsbD_setWidth, BitVec.getLsbD_append, BitVec.getLsbD_or, BitVec.getLsbD_shiftLeft]
  by_cases low : i < m
  · simp [low]
  · have high : i - m < k := by omega
    simp [low, hi, high, BitVec.getLsbD_of_ge y i (by omega)]

/-- Settles O39: the bytes of a MemRead are appended, which is the shift-and-or of R54 one byte at a time. -/
theorem memReadIsBigEndian : Obligations.MemReadIsBigEndian := by
  refine fun m i => ⟨rfl, ?_, ?_⟩
  · exact (BitVec.setWidth_eq _).symm.trans (setWidth_append_eq_or ..)
  · rw [← BitVec.setWidth_eq (m.read4 i), Memory.read4]
    simp only [setWidth_append_eq_or, BitVec.shiftLeft_or_distrib, ← BitVec.shiftLeft_add]

/-- One byte written after n others is read after them. -/
theorem Memory.writeBytes_concat (m : Memory) (i : Nat) (as : List Byte) (b : Byte) :
    (m.writeBytes i as).write (i + as.length) b = m.writeBytes i (as ++ [b]) := by
  induction as generalizing m i with
  | nil => rfl
  | cons a as ih => simpa [Memory.writeBytes, Nat.add_assoc, Nat.add_comm 1] using ih (m.write i a) (i + 1)

/-- Inside the bytes written, each is read back. -/
theorem Memory.read_writeBytes_zero (m : Memory) {bs : List Byte} {k : Nat} (h : k < bs.length) :
    (m.writeBytes 0 bs).read k = bs.getD k 0x00#8 := by
  rw [Memory.read_writeBytes, if_pos ⟨Nat.zero_le k, by omega⟩]
  rfl

/-- The first n bytes written are read back. -/
theorem Memory.readBytes_writeBytes_take (m : Memory) {bs : List Byte} {n : Nat} (h : n ≤ bs.length) :
    (m.writeBytes 0 bs).readBytes 0 n = bs.take n := by
  calc
    _ = ((m.writeBytes 0 bs).readBytes 0 (n + (bs.length - n))).take n := by
      rw [Memory.readBytes_add, List.take_left' (Memory.readBytes_length ..)]
    _ = bs.take n := by rw [Nat.add_sub_of_le h, Memory.readBytes_writeBytes]

/-- Writing the same bytes again changes nothing in a buffer in canonical form. -/
theorem Memory.writeBytes_again {size : Nat} {m : Memory} {i : Nat} {bs : List Byte} (hi : i + bs.length ≤ size)
    (h : m.wf size) : (m.writeBytes i bs).writeBytes i bs = m.writeBytes i bs := by
  have once := Memory.writeBytes_wf hi h
  refine Memory.ext_of_wf (Memory.writeBytes_wf hi once) once fun j => ?_
  rw [Memory.read_writeBytes _ i j, Memory.read_writeBytes m i j]
  split <;> rfl

/-! ### The outcomes of a command, guard by guard -/

section
variable {s : State}

theorem readField_absent {k : BitVec 8} {width : Nat} {v : Memory → Nat → BitVec 32} (hp : s.rxPresent = false) :
    readField k width v s = .next (s.raised .errNoframe) := by
  simp [readField, dataCheck, hp]

theorem readField_outOfRange {k : BitVec 8} {width : Nat} {v : Memory → Nat → BitVec 32} (hp : s.rxPresent = true)
    (hd : s.rxDlen.toNat < k.toNat + width) : readField k width v s = .next (s.raised .errRange) := by
  simp [readField, dataCheck, hp, hd]

theorem readField_outside {k : BitVec 8} {width : Nat} {v : Memory → Nat → BitVec 32} (hp : s.rxPresent = true)
    (hd : k.toNat + width ≤ s.rxDlen.toNat) (hc : s.rxCap < 4 + k.toNat + width) :
    readField k width v s = .fault .rxIndexOutside := by
  simp [readField, dataCheck, hp, hc, Nat.not_lt.2 hd]

theorem readField_value {k : BitVec 8} {width : Nat} {v : Memory → Nat → BitVec 32} (hp : s.rxPresent = true)
    (hd : k.toNat + width ≤ s.rxDlen.toNat) (hc : 4 + k.toNat + width ≤ s.rxCap) :
    readField k width v s = .next ((s.setResult (v s.rxbuf (4 + k.toNat))).completed .ok) := by
  simp [readField, dataCheck, hp, Nat.not_lt.2 hd, Nat.not_lt.2 hc]

theorem execRds_absent (hp : s.rxPresent = false) : execRds s = .next (s.raised .errNoframe) := by
  simp [execRds, hp]

theorem execRds_outside (hp : s.rxPresent = true) (hc : s.rxCap < 4 + keptLength s.rxDlen.toNat) :
    execRds s = .fault .rxIndexOutside := by
  simp [execRds, hp, hc]

theorem execRds_value (hp : s.rxPresent = true) (hc : 4 + keptLength s.rxDlen.toNat ≤ s.rxCap) :
    execRds s = .next ((s.setResult (BitVec.ofNat 32
      (stringLength (s.rxbuf.readBytes 4 (keptLength s.rxDlen.toNat))))).completed .ok) := by
  simp [execRds, hp, Nat.not_lt.2 hc]

theorem execDecode_overflowed (ho : s.rxOvf = true) : execDecode s = .next (s.raised .errRxOvf) := by
  simp [execDecode, ho]

theorem execDecode_short (ho : s.rxOvf = false) (hn : s.rxlen.toNat < 6) :
    execDecode s = .next (s.raised .errShort) := by
  simp [execDecode, ho, hn]

theorem execDecode_outside (ho : s.rxOvf = false) (hn : 6 ≤ s.rxlen.toNat) (hc : s.rxCap < s.rxlen.toNat) :
    execDecode s = .fault .rxIndexOutside := by
  simp [execDecode, ho, hc, Nat.not_lt.2 hn]

theorem execDecode_decoded (ho : s.rxOvf = false) (hn : 6 ≤ s.rxlen.toNat) (hc : s.rxlen.toNat ≤ s.rxCap) :
    execDecode s = .next ((s.setDecoded s.rxlen.toNat (s.rxbuf.recvChecksum s.rxlen.toNat)
      (s.rxbuf.calcChecksum s.rxlen.toNat)).completed
        (if s.rxbuf.frameValid s.rxlen.toNat then .ok else .cksumBad)) := by
  simp [execDecode, ho, Nat.not_lt.2 hn, Nat.not_lt.2 hc]

theorem execRxpush_appended (b : Byte) (h : s.rxlen.toNat < s.rxCap) : execRxpush b s =
    .next ((s.setRx (s.rxbuf.write s.rxlen.toNat b) (s.rxlen + 1#8)).clearRx.completed .ok) := by
  simp [execRxpush, Nat.ne_of_lt h, Nat.not_lt_of_gt h]

theorem execRxpush_outside (b : Byte) (h : s.rxCap < s.rxlen.toNat) : execRxpush b s = .fault .rxIndexOutside := by
  simp [execRxpush, h, Nat.ne_of_gt h]

theorem encodeTelegram_encoded {tt : BitVec 2} {obj : Byte} {len : BitVec 5} {ps : List Byte} {n : Fin 22}
    (h : lenLegal len = true) : encodeTelegram tt obj len ps n s =
      .next ((s.setTx (s.txbuf.writeBytes 0 (txImage (outFrame tt obj len ps))) n).completed .ok) := by
  simp [encodeTelegram, h]

theorem encodeTelegram_illegal {tt : BitVec 2} {obj : Byte} {len : BitVec 5} {ps : List Byte} {n : Fin 22}
    (h : lenLegal len = false) : encodeTelegram tt obj len ps n s = .next (s.raised .errLen) := by
  simp [encodeTelegram, h]

end

/-- Settles O23: the guard of each of the model's stops (note 4). -/
theorem indexOutsideRxbufStops : Obligations.IndexOutsideRxbufStops := by
  refine ⟨fun _ b => execRxpush_outside b, fun _ => execDecode_outside, fun s k hp => ⟨?_, ?_, ?_⟩,
    fun s hp hc => ?_⟩
  · rw [exec, execRdb]
    exact readField_outside hp
  · rw [exec, execRdw]
    exact readField_outside hp
  · rw [exec, execRdf]
    exact readField_outside hp
  · exact execRds_outside hp (by rwa [keptLength_eq])

/-! ### The step takes the host's next action (R53, R63) -/

theorem step_pending {s : State} {a : HostAction} {rest : List HostAction} (h : s.pending = a :: rest) :
    step s = perform a (s.setPending rest) := by
  rw [step, hostStep, h]

theorem step_idle {s : State} (h : s.pending = []) : step s = .next s := by
  rw [step, hostStep, h]

theorem hostCommand_legal {w : CommandWord} {i : Instr} (h : decode w = .ok i) (s : State) :
    hostCommand w s = exec i s := by
  rw [hostCommand, h]

theorem hostCommand_illegal {w : CommandWord} {e : DecodeError} (h : decode w = .error e) (s : State) :
    hostCommand w s = .next (s.raised .errIllegal) := by
  rw [hostCommand, h, execIllegal, raise]

/-- A register read does not look at the actions to come. -/
theorem hostRead_setPending (acts : List HostAction) (s : State) (r : BitVec 8) :
    hostRead (s.setPending acts) r = hostRead s r := rfl

/-- Settles O6: the next action is taken off, and its word runs the command it spells. -/
theorem stepRunsTheDecodedCommand : Obligations.StepRunsTheDecodedCommand := fun _ _ _ _ hpending hdecode =>
  (step_pending hpending).trans (hostCommand_legal hdecode _)

/-- Settles O7, by the action the step takes: an illegal word, a register read, a reset, or none. -/
theorem stepServesTheHost : Obligations.StepServesTheHost := by
  refine ⟨fun _ _ _ _ hpending hdecode => ?_, fun s r rest hpending => ?_, fun _ _ hpending => ?_, fun _ => step_idle⟩
  · exact (step_pending hpending).trans (hostCommand_illegal hdecode _)
  · rw [step_pending hpending, perform, hostRead_setPending]
    rfl
  · exact step_pending hpending

/-! ### Errors are precise (R59, R182, R186) -/

/-- An error other than the two that `complete` reports was reported by `raise`. -/
theorem CommandEffect.raised_of_error {i : Instr} {s t : State} (h : CommandEffect s i t) (hok : t.status ≠ 0x00#8)
    (hbad : t.status ≠ 0x01#8) (hovf : t.status = 0x05#8 → ∀ b, i ≠ .rxpush b) : ∃ e, t = s.raised e := by
  cases h with
  | reported => exact ⟨_, rfl⟩
  | overflowed b => exact absurd rfl (hovf rfl b)
  | decoded =>
    rw [State.completed_status] at hok hbad
    split at hok
    · exact absurd rfl hok
    · next invalid => exact absurd (by rw [if_neg invalid]; rfl) hbad
  | _ => exact absurd rfl hok

/-- Settles O25: such an error comes from `raise`, which writes STATUS and the STICKY bit of its code. -/
theorem errorsArePrecise : Obligations.ErrorsArePrecise := by
  intro w s t h hok hbad hovf
  have : ∃ e, t = s.raised e := by
    rcases hostCommand_cases w s with ⟨i, hdecode, e⟩ | ⟨_, _, e⟩
    · exact (exec_effect (e.symm.trans h)).raised_of_error hok hbad
        fun hcode b hi => hovf hcode b (hi ▸ hdecode)
    · exact ⟨_, (next_inj.1 (e.symm.trans h)).symm⟩
  obtain ⟨e, rfl⟩ := this
  rfl

/-! ### Idempotent commands (R60) -/

theorem stickyAfter_again (e : StatusCode) (v : BitVec 32) : stickyAfter e (stickyAfter e v) = stickyAfter e v := by
  by_cases h : e = .ok
  · simp [h]
  · simp [stickyAfter_error h, BitVec.or_assoc]

/-- Ending again with the same code writes nothing new. -/
theorem State.completed_again (e : StatusCode) (s : State) : (s.completed e).completed e = s.completed e := by
  simp only [State.completed, stickyAfter_again]

theorem State.raised_again {e : StatusCode} (h : e ≠ .ok) (s : State) : (s.raised e).raised e = s.raised e := by
  simp only [State.raised_eq_completed h, State.completed_again]

theorem State.setResult_again (e : StatusCode) (v : BitVec 32) (s : State) :
    (((s.setResult v).completed e).setResult v).completed e = (s.setResult v).completed e :=
  State.completed_again e (s.setResult v)

theorem State.setDecoded_again (e : StatusCode) (n : Nat) (recv computed : Half) (s : State) :
    (((s.setDecoded n recv computed).completed e).setDecoded n recv computed).completed e =
      (s.setDecoded n recv computed).completed e :=
  State.completed_again e (s.setDecoded n recv computed)

theorem State.setTx_again (e : StatusCode) (buf : Memory) (n : Fin 22) (s : State) :
    (((s.setTx buf n).completed e).setTx buf n).completed e = (s.setTx buf n).completed e :=
  State.completed_again e (s.setTx buf n)

/-- A computation that answers u on s, and on u the same state again, answers again whatever it answered on s. -/
theorem answers_again {f : State → Result} {s t u u' : State} (h : f s = .next t) (first : f s = .next u)
    (again : f u = .next u') (same : u' = u) : f t = .next t := by
  obtain rfl := next_inj.1 (first.symm.trans h)
  exact same ▸ again

theorem encodeTelegram_again {tt : BitVec 2} {obj : Byte} {len : BitVec 5} {ps : List Byte} {n : Fin 22} {s t : State}
    (hs : Inv s) (hps : ps.length ≤ 16) (h : encodeTelegram tt obj len ps n s = .next t) :
    encodeTelegram tt obj len ps n t = .next t := by
  rcases encodeTelegram_cases tt obj len ps n s with ⟨hlen, e⟩ | ⟨hlen, e⟩
  · refine answers_again h e (encodeTelegram_encoded hlen) ?_
    have image : (txImage (outFrame tt obj len ps)).length = 21 :=
      txImage_length (by rw [outFrame_length]; omega)
    rw [State.completed_txbuf, State.setTx_txbuf, Memory.writeBytes_again (by rw [image]) hs.txbuf_wf]
    exact State.setTx_again ..
  · exact answers_again h e (encodeTelegram_illegal hlen) (State.raised_again (by decide) s)

theorem execDecode_again {s t : State} (h : execDecode s = .next t) : execDecode t = .next t := by
  rcases execDecode_cases s with ⟨ho, e⟩ | ⟨ho, hn, e⟩ | ⟨_, _, _, e⟩ | ⟨ho, hn, hc, e⟩
  · exact answers_again h e (execDecode_overflowed ho) (State.raised_again (by decide) s)
  · exact answers_again h e (execDecode_short ho hn) (State.raised_again (by decide) s)
  · exact nomatch e.symm.trans h
  · exact answers_again h e (execDecode_decoded ho hn hc) (State.setDecoded_again ..)

theorem readField_again {k : BitVec 8} {width : Nat} {v : Memory → Nat → BitVec 32} {s t : State}
    (h : readField k width v s = .next t) : readField k width v t = .next t := by
  rcases readField_cases k width v s with ⟨hp, e⟩ | ⟨hp, hd, e⟩ | ⟨_, _, _, e⟩ | ⟨hp, hd, hc, e⟩
  · exact answers_again h e (readField_absent hp) (State.raised_again (by decide) s)
  · exact answers_again h e (readField_outOfRange hp hd) (State.raised_again (by decide) s)
  · exact nomatch e.symm.trans h
  · exact answers_again h e (readField_value hp hd hc) (State.setResult_again ..)

theorem execRds_again {s t : State} (h : execRds s = .next t) : execRds t = .next t := by
  rcases execRds_cases s with ⟨hp, e⟩ | ⟨_, _, e⟩ | ⟨hp, hc, e⟩
  · exact answers_again h e (execRds_absent hp) (State.raised_again (by decide) s)
  · exact nomatch e.symm.trans h
  · exact answers_again h e (execRds_value hp hc) (State.setResult_again ..)

/-- Settles O30, command by command: its guards hold again on the state it leaves, and its writes are there already. -/
theorem repeatingACommandChangesNothing : Obligations.RepeatingACommandChangesNothing := by
  intro i s t hs hi h
  cases i with
  | nop => exact answers_again (f := exec .nop) h rfl rfl rfl
  | encq obj len => exact encodeTelegram_again hs (Nat.zero_le _) h
  | pclr => exact answers_again (f := exec .pclr) h rfl rfl rfl
  | rxclr => exact answers_again (f := exec .rxclr) h rfl rfl rfl
  | decode => exact execDecode_again h
  | rdb k =>
    rw [exec, execRdb] at h ⊢
    exact readField_again h
  | rdw k =>
    rw [exec, execRdw] at h ⊢
    exact readField_again h
  | rdf k =>
    rw [exec, execRdf] at h ⊢
    exact readField_again h
  | rds => exact execRds_again h
  | encc | ppush | rxpush => exact nomatch hi

/-! ### What the host sends: staged params, the frame, and the reads of R68 -/

/-- The bytes staged from PARAM[0] on, by a command that completed with OK (R113, R114). -/
def State.stage (ps : List Byte) (h : ps.length < 17) (s : State) : State :=
  (s.setParam (s.param.writeBytes 0 ps) ⟨ps.length, h⟩).completed .ok

/-- The frame encoded into TXBUF (R111, R112). -/
def State.encoded (frame : List Byte) (n : Fin 22) (s : State) : State :=
  (s.setTx (s.txbuf.writeBytes 0 (txImage frame)) n).completed .ok

theorem State.encoded_read (s : State) {frame : List Byte} (n : Fin 22) {i : Nat} (hi : i < frame.length) :
    (s.encoded frame n).txbuf.read i = frame.getD i 0x00#8 := by
  have image : i < (txImage frame).length := by
    rw [txImage, List.length_append]
    omega
  exact (Memory.read_writeBytes_zero _ image).trans (txImage_getD_frame hi _)

section
variable (s : State) {ps : List Byte}

@[simp] theorem State.stage_stagedParams (h : ps.length < 17) : (s.stage ps h).stagedParams = ps :=
  Memory.readBytes_writeBytes s.param 0 ps

theorem exec_pclr_stage : exec .pclr s = .next (s.stage [] (by decide)) := rfl

theorem exec_ppush_stage (b : Byte) (h : ps.length + 1 < 17) :
    exec (.ppush b) (s.stage ps (by omega)) = .next (s.stage (ps ++ [b]) (by simpa using h)) := by
  have write := Memory.writeBytes_concat s.param 0 ps b
  have count : (⟨ps.length + 1, h⟩ : Fin 17) = ⟨(ps ++ [b]).length, by simpa using h⟩ := Fin.ext (by simp)
  rw [Nat.zero_add] at write
  rw [State.stage, State.stage, ← write, ← count]
  exact dif_pos (Nat.lt_of_succ_lt_succ h)

theorem execAll_ppush_stage {qs : List Byte} (h : ps.length + qs.length < 17) :
    execAll (qs.map Instr.ppush) (s.stage ps (by omega)) = some (s.stage (ps ++ qs) (by simpa using h)) := by
  induction qs generalizing ps with
  | nil => simp
  | cons q qs ih =>
    rw [List.length_cons] at h
    rw [List.map_cons, execAll_cons (exec_ppush_stage s q (by omega)), ih (by simp; omega)]
    simp only [List.append_assoc, List.singleton_append]

theorem exec_encc_stage {obj : Byte} {len : BitVec 5} (hlen : lenLegal len = true) (h : ps.length < 17) :
    exec (.encc obj len) (s.stage ps h) =
      .next ((s.stage ps h).encoded (outFrame ttControl obj len ps) ⟨5 + ps.length, by omega⟩) := by
  rw [exec, execEncc, s.stage_stagedParams h]
  exact encodeTelegram_encoded hlen

/-- PCLR, a PPUSH per param and ENCC build the telegram of the params, whatever was staged (R88, R89). -/
theorem execAll_control {obj : Byte} {len : BitVec 5} (hlen : lenLegal len = true) (h : ps.length < 17) :
    execAll (.pclr :: (ps.map Instr.ppush ++ [.encc obj len])) s =
      some ((s.stage ps h).encoded (outFrame ttControl obj len ps) ⟨5 + ps.length, by omega⟩) := by
  have params : execAll (ps.map Instr.ppush) (s.stage [] (by decide)) = some (s.stage ps h) :=
    execAll_ppush_stage s (ps := []) (by simpa using h)
  rw [execAll_cons (exec_pclr_stage s), execAll_append, params, Option.bind_some,
    execAll_cons (exec_encc_stage s hlen h), execAll_nil]

theorem rawHigh_toNat (raw : BitVec 16) : (raw.extractLsb' 8 8).toNat = raw.toNat / 256 := by
  rw [BitVec.extractLsb'_toNat, Nat.shiftRight_eq_div_pow]
  omega

theorem rawLow_toNat (raw : BitVec 16) : (raw.extractLsb' 0 8).toNat = raw.toNat % 256 := by
  rw [BitVec.extractLsb'_toNat, Nat.shiftRight_zero]

/-- The control telegram of a raw setpoint (R89). -/
theorem execAll_setpoint (obj : Byte) (raw : BitVec 16) {len : BitVec 5} (hlen : lenLegal len = true) :
    ∃ t, execAll (.pclr :: ((rawParams raw).map Instr.ppush ++ [.encc obj len])) s = some t ∧ t.status = 0x00#8 ∧
      t.txlen.val = 7 ∧ t.txbuf.read 2 = obj ∧ (t.txbuf.read 3).toNat = raw.toNat / 256 ∧
      (t.txbuf.read 4).toNat = raw.toNat % 256 := by
  refine ⟨_, execAll_control s hlen (ps := rawParams raw) (by simp [rawParams]), rfl, rfl, ?_⟩
  have byte (i : Nat) (hi : i < 7) := State.encoded_read (s.stage (rawParams raw) (by simp [rawParams]))
    (frame := outFrame ttControl obj len (rawParams raw)) 7 (i := i) (by simpa [rawParams] using hi)
  refine ⟨byte 2 (by decide), ?_, ?_⟩
  · exact (congrArg BitVec.toNat (byte 3 (by decide))).trans (rawHigh_toNat raw)
  · exact (congrArg BitVec.toNat (byte 4 (by decide))).trans (rawLow_toNat raw)

end

/-- Settles O49: both operations stage the same two bytes and differ in the object. -/
theorem setpointBytesAreBigEndian : Obligations.SetpointBytesAreBigEndian := fun s raw len hmin hmax =>
  have hlen := (lenLegal_iff len).2 ⟨hmin, hmax⟩
  ⟨execAll_setpoint s 0x32#8 raw hlen, execAll_setpoint s 0x33#8 raw hlen⟩

/-- Settles O50: register 0x20 + i is TXBUF[i]. -/
theorem sendReadsReturnTheFrame : Obligations.SendReadsReturnTheFrame := by
  intro s i hi
  have number : (BitVec.ofNat 8 (0x20 + i)).toNat = 0x20 + i := by
    rw [BitVec.toNat_ofNat]
    omega
  refine ⟨BitVec.ofNat 8 (0x20 + i), by simp [sendReads, hi], ?_⟩
  rw [perform, hostRead_txbuf s (by omega) (by omega), number, Nat.add_sub_cancel_left, State.txFrame,
    Memory.readBytes_getD _ _ _ _ hi, Nat.zero_add]
  rfl

/-! ### The host's commands through the step (R63, R68) -/

/-- A laid-out word selects no row of another opcode (R75, R77). -/
theorem selects_of_opcode_ne {r : OpcodeRow} {op obj k low : BitVec 8} (hmask : opField r.mask = 0xFF#8)
    (hne : op ≠ opField r.pattern) : r.selects (layoutWord op obj k low) = false := by
  rw [OpcodeRow.selects, beq_eq_false_iff_ne]
  intro h
  apply hne
  rw [← h, ← layoutWord_lanes r.mask, layoutWord_and, opField_layoutWord, hmask]
  exact BitVec.and_allOnes.symm

/-- A command's word selects the command's own row. -/
theorem row_selects_encode (i : Instr) : (Laws.EncodeSelectsRow.row i).selects (encode i) = true := by
  cases i with
  | nop | pclr | rxclr | decode | rds => rfl
  | encq obj len => exact Laws.EncodeSelectsRow.encq obj len
  | encc obj len => exact Laws.EncodeSelectsRow.encc obj len
  | ppush b => exact Laws.EncodeSelectsRow.ppush b
  | rxpush b => exact Laws.EncodeSelectsRow.rxpush b
  | rdb k => exact Laws.EncodeSelectsRow.rdb k
  | rdw k => exact Laws.EncodeSelectsRow.rdw k
  | rdf k => exact Laws.EncodeSelectsRow.rdf k

/-- A command's word decodes to the command: the rows before its own have another opcode. -/
theorem decode_encode (i : Instr) : decode (encode i) = .ok i := by
  have own := row_selects_encode i
  cases i with
  | nop | pclr | rxclr | decode | rds => rfl
  | _ =>
    simp only [Laws.EncodeSelectsRow.row, encode] at own ⊢
    simp (disch := decide) [decode, selects_of_opcode_ne, own]

theorem run_step {k : Nat} {s t : State} (h : step s = .next t) :
    Host.Core.run Sys2Proof.core (k + 1) s = Host.Core.run Sys2Proof.core k t := by
  have h : Sys2Proof.core.step s = .next t := h
  simp only [Host.Core.run, h]

/-- The actions to come that issue these commands. -/
def commandActions (is : List Instr) : List HostAction := is.map (fun i => .command (encode i))

/-- A step runs the next of these commands as it runs alone. -/
theorem step_commandActions {i : Instr} {is : List Instr} {rest : List HostAction} {s u : State}
    (hpending : s.pending = commandActions (i :: is) ++ rest) (h : exec i (s.setPending rest) = .next u) :
    step s = .next (u.setPending (commandActions is ++ rest)) := by
  have next : step s = hostCommand (encode i) (s.setPending (commandActions is ++ rest)) := step_pending hpending
  obtain ⟨_, _, hreply⟩ := exec_keepsHost i _ u h
  rw [next, hostCommand_legal (decode_encode i)]
  have unseen : exec i (s.setPending (commandActions is ++ rest)) = _ :=
    (exec_setHost (commandActions is ++ rest) s.readReply (s.setPending rest) i).trans (congrArg (onNext _) h)
  rw [onNext_next, show s.readReply = u.readReply from hreply.symm] at unseen
  exact unseen

/-- As many steps as commands to come run them all, in order. -/
theorem run_commandActions {is : List Instr} {rest : List HostAction} {s t : State}
    (hpending : s.pending = commandActions is ++ rest) (h : execAll is (s.setPending rest) = some t) :
    Host.Core.run Sys2Proof.core is.length s = .next t := by
  induction is generalizing s with
  | nil =>
    obtain rfl : s.pending = rest := hpending
    obtain rfl : s = t := Option.some.inj h
    rfl
  | cons i is ih =>
    cases e : exec i (s.setPending rest) with
    | next u =>
      rw [execAll_cons e] at h
      obtain ⟨_, hrest, _⟩ := exec_keepsHost i _ u e
      have back : (u.setPending (commandActions is ++ rest)).setPending rest = u := by
        rw [State.setPending_pending] at hrest
        rw [← hrest]
        rfl
      rw [List.length_cons, run_step (step_commandActions hpending e)]
      exact ih rfl (back ▸ h)
    | fault r => simp [execAll, e] at h
    | refused r => simp [execAll, e] at h

/-! ### What the host receives (R68, R131 to R133) -/

/-- The bytes received from RXBUF[0] on, none of them decoded, by a command that completed with OK (R131, R132). -/
def State.receive (bs : List Byte) (s : State) : State :=
  (s.emptyRx.setRx (s.rxbuf.writeBytes 0 bs) (BitVec.ofNat 8 bs.length)).clearRx.completed .ok

section
variable (s : State) {bs : List Byte}

theorem State.receive_rxlen (h : bs.length < 256) : (s.receive bs).rxlen.toNat = bs.length :=
  Nat.mod_eq_of_lt h

theorem exec_rxclr_receive : exec .rxclr s = .next (s.receive []) := rfl

theorem exec_rxpush_receive (b : Byte) (h : bs.length < s.rxCap) (hcap : s.rxCap ≤ 128) :
    exec (.rxpush b) (s.receive bs) = .next (s.receive (bs ++ [b])) := by
  have len := s.receive_rxlen (bs := bs) (by omega)
  have write := Memory.writeBytes_concat s.rxbuf 0 bs b
  have count : BitVec.ofNat 8 bs.length + 1#8 = BitVec.ofNat 8 (bs ++ [b]).length := by
    rw [List.length_append, BitVec.ofNat_add]
    rfl
  have push := execRxpush_appended (s := s.receive bs) b (by rw [len]; exact h)
  rw [len] at push
  rw [Nat.zero_add] at write
  rw [State.receive, State.receive, ← write, ← count]
  exact push

theorem execAll_rxpush_receive {cs : List Byte} (h : (bs ++ cs).length ≤ s.rxCap) (hcap : s.rxCap ≤ 128) :
    execAll (cs.map Instr.rxpush) (s.receive bs) = some (s.receive (bs ++ cs)) := by
  induction cs generalizing bs with
  | nil => simp
  | cons c cs ih =>
    rw [List.append_cons] at h ⊢
    rw [List.map_cons, execAll_cons (exec_rxpush_receive s c (by simp at h; omega) hcap), ih h]

/-- RXCLR and an RXPUSH per byte leave the bytes received (R88). -/
theorem execAll_rxload (h : bs.length ≤ s.rxCap) (hcap : s.rxCap ≤ 128) :
    execAll (.rxclr :: bs.map Instr.rxpush) s = some (s.receive bs) := by
  rw [execAll_cons (exec_rxclr_receive s)]
  exact execAll_rxpush_receive s h hcap

end

theorem Memory.calcChecksum_writeBytes (m : Memory) (bs : List Byte) :
    (m.writeBytes 0 bs).calcChecksum bs.length = Sys2Proof.Machine.csum (bs.take (bs.length - 2)) := by
  rw [Memory.calcChecksum, Memory.csum, Nat.sub_zero, Memory.readBytes_writeBytes_take m (Nat.sub_le ..)]

/-- The checksum a reply carries: its last two bytes, high first (R103). -/
def replyChecksum (bs : List Byte) : Half := bs.getD (bs.length - 2) 0x00#8 ++ bs.getD (bs.length - 1) 0x00#8

theorem Memory.recvChecksum_writeBytes (m : Memory) {bs : List Byte} (h : 2 ≤ bs.length) :
    (m.writeBytes 0 bs).recvChecksum bs.length = replyChecksum bs := by
  have last : bs.length - 2 + 1 = bs.length - 1 := by omega
  rw [Memory.recvChecksum, Memory.read2_eq, last, Memory.read_writeBytes_zero m (by omega),
    Memory.read_writeBytes_zero m (by omega), replyChecksum]

/-- The reply received and decoded, with the checksum it carries and the one computed over the bytes before that
(R133). -/
def State.decodedReply (bs : List Byte) (s : State) : State :=
  ((s.receive bs).setDecoded bs.length (replyChecksum bs) (csum (bs.take (bs.length - 2)))).completed
    (if csum (bs.take (bs.length - 2)) == replyChecksum bs then .ok else .cksumBad)

theorem exec_decode_receive (s : State) {bs : List Byte} (hmin : 6 ≤ bs.length) (h : bs.length ≤ s.rxCap)
    (hcap : s.rxCap ≤ 128) : exec .decode (s.receive bs) = .next (s.decodedReply bs) := by
  have len := s.receive_rxlen (bs := bs) (by omega)
  have decoded := execDecode_decoded (s := s.receive bs) rfl (by rw [len]; exact hmin) (by rw [len]; exact h)
  have buffer : (s.receive bs).rxbuf = s.rxbuf.writeBytes 0 bs := rfl
  rw [len, Memory.frameValid, buffer, Memory.calcChecksum_writeBytes, Memory.recvChecksum_writeBytes _ (by omega)]
    at decoded
  exact decoded

/-- The commands of the host's exchange receive and decode the reply (R68). -/
theorem execAll_exchange (s : State) {bs : List Byte} (hmin : 6 ≤ bs.length) (h : bs.length ≤ s.rxCap)
    (hcap : s.rxCap ≤ 128) :
    execAll (.rxclr :: (bs.map Instr.rxpush ++ [.decode])) s = some (s.decodedReply bs) := by
  rw [← List.cons_append, execAll_append, execAll_rxload s h hcap, Option.bind_some,
    execAll_cons (exec_decode_receive s hmin h hcap), execAll_nil]

/-- Settles O52: the steps run the commands of the exchange, and the registers are read off the reply received. -/
theorem receiveExchangeDecodesTheReply : Obligations.ReceiveExchangeDecodesTheReply := by
  intro s reply rest hs hmin hmax hpending
  obtain ⟨_, hcap⟩ := hs.rxCap_range
  rw [rxCapMax_eq] at hcap
  have exchange := run_commandActions hpending (execAll_exchange (s.setPending rest) hmin hmax hcap)
  rw [List.length_cons, List.length_append, List.length_map, List.length_singleton] at exchange
  have byte {k : Nat} (hk : k < reply.length) := Memory.read_writeBytes_zero s.rxbuf hk
  refine ⟨_, exchange, rfl, rfl, (s.setPending rest).receive_rxlen (by omega),
    Memory.readBytes_writeBytes s.rxbuf 0 reply, byte (by omega), byte (by omega),
    Nat.mod_eq_of_lt (by rw [minRx_eq]; omega), rfl, rfl⟩

end Sys2Proof.Machine
end

/-! PROOFS. The encoding family (spec/30_encoding.md): the opcode map as a table of rows with their commands, the
command word both ways, illegal words, the assembler with its pseudo-instructions, and the object-id table. -/

namespace Sys2Proof.Machine

/-! ### The opcode map as a table (R77) -/

theorem selects_iff {r : OpcodeRow} {w : CommandWord} : r.selects w = true ↔ w &&& r.mask = r.pattern := beq_iff_eq

/-- Every assigned row requires all eight bits of OP. -/
theorem opcodeTable_mask_opcode : ∀ r ∈ opcodeTable, opField r.mask = 0xFF#8 := by decide

/-- The assigned opcodes are those up to 0x0B. -/
theorem opcodeTable_opcode_le : ∀ r ∈ opcodeTable, (opField r.pattern).toNat ≤ 0x0B := by decide

/-- No two rows share an opcode. -/
theorem opcodeTable_opcodes_nodup : (opcodeTable.map fun r => opField r.pattern).Nodup := by decide

/-- A row selects words of its own opcode only. -/
theorem opField_of_selects {r : OpcodeRow} {w : CommandWord} (hr : r ∈ opcodeTable) (h : r.selects w = true) :
    opField w = opField r.pattern := by
  by_contra hne
  have other : r.selects w = false :=
    layoutWord_lanes w ▸ selects_of_opcode_ne (opcodeTable_mask_opcode r hr) hne
  exact nomatch h.symm.trans other

/-- Each row in the table's order, with the command it stands for in the word w and the fields of R71 to R74. -/
def rowCommands (w : CommandWord) : List (OpcodeRow × Instr) :=
  [(rowNop, .nop), (rowEncq, .encq (objField w) (lenField w)), (rowEncc, .encc (objField w) (lenField w)),
   (rowPclr, .pclr), (rowPpush, .ppush (objField w)), (rowRxclr, .rxclr), (rowRxpush, .rxpush (objField w)),
   (rowDecode, .decode), (rowRdb, .rdb (offsetField w)), (rowRdw, .rdw (offsetField w)),
   (rowRdf, .rdf (offsetField w)), (rowRds, .rds)]

theorem rowCommands_rows (w : CommandWord) : (rowCommands w).map Prod.fst = opcodeTable := rfl

theorem mem_opcodeTable_of_mem_rowCommands {w : CommandWord} {e : OpcodeRow × Instr} (h : e ∈ rowCommands w) :
    e.1 ∈ opcodeTable :=
  rowCommands_rows w ▸ List.mem_map_of_mem h

/-- The decoder answers the command of the first row that selects the word. -/
theorem decode_eq_find (w : CommandWord) : decode w =
    (((rowCommands w).find? fun e => e.1.selects w).elim (.error (rejection w)) fun e => .ok e.2) := by
  have elim_find_cons (e : OpcodeRow × Instr) (l : List (OpcodeRow × Instr)) :
      ((e :: l).find? fun e => e.1.selects w).elim (Except.error (rejection w)) (fun e => .ok e.2) =
        if e.1.selects w then .ok e.2
        else (l.find? fun e => e.1.selects w).elim (Except.error (rejection w)) fun e => .ok e.2 := by
    cases h : e.1.selects w <;> simp [h]
  simp only [rowCommands, elim_find_cons]
  rfl

/-- The rows are disjoint: two entries that both select the word have its opcode, so they are the same. -/
theorem rowCommands_unique {w : CommandWord} {e e' : OpcodeRow × Instr} (he : e ∈ rowCommands w)
    (he' : e' ∈ rowCommands w) (h : e.1.selects w = true) (h' : e'.1.selects w = true) : e = e' :=
  have opcodes : ((rowCommands w).map fun e => opField e.1.pattern).Nodup := opcodeTable_opcodes_nodup
  List.inj_on_of_nodup_map opcodes he he'
    ((opField_of_selects (mem_opcodeTable_of_mem_rowCommands he) h).symm.trans
      (opField_of_selects (mem_opcodeTable_of_mem_rowCommands he') h'))

/-- The decoder answers the commands of the rows that select the word, and no others. -/
theorem decode_eq_ok_iff {w : CommandWord} {i : Instr} :
    decode w = .ok i ↔ ∃ r, (r, i) ∈ rowCommands w ∧ r.selects w = true := by
  rw [decode_eq_find]
  cases found : (rowCommands w).find? fun e => e.1.selects w with
  | none =>
    have none_selects := List.find?_eq_none.1 found
    exact ⟨(nomatch ·), fun ⟨_, hmem, h⟩ => absurd h (none_selects _ hmem)⟩
  | some e =>
    have hmem := List.mem_of_find?_eq_some found
    have hsel := List.find?_some (p := fun e : OpcodeRow × Instr => e.1.selects w) found
    constructor
    · intro h
      obtain rfl : e.2 = i := Except.ok.inj h
      exact ⟨e.1, hmem, hsel⟩
    · rintro ⟨r, hmem', hsel'⟩
      rw [rowCommands_unique hmem hmem' hsel hsel']
      rfl

/-- The decoder rejects exactly the words no row selects (R85). -/
theorem decode_eq_error_iff {w : CommandWord} :
    (∃ e, decode w = .error e) ↔ ∀ r ∈ opcodeTable, w &&& r.mask ≠ r.pattern := by
  constructor
  · rintro ⟨e, h⟩ r hr hsel
    obtain ⟨⟨r, i⟩, hmem, rfl⟩ := List.mem_map.1 (rowCommands_rows w ▸ hr)
    exact nomatch h.symm.trans (decode_eq_ok_iff.2 ⟨r, hmem, selects_iff.2 hsel⟩)
  · intro none_selects
    cases h : decode w with
    | error e => exact ⟨e, rfl⟩
    | ok i =>
      obtain ⟨r, hmem, hsel⟩ := decode_eq_ok_iff.1 h
      exact absurd (selects_iff.1 hsel) (none_selects r (mem_opcodeTable_of_mem_rowCommands hmem))

/-! ### The command word both ways (R70 to R77) -/

/-- Settles O1: a command's word selects the command's own row, and the rows before it have another opcode. -/
theorem decodeOfEncodeIsTheCommand : Obligations.DecodeOfEncodeIsTheCommand := decode_encode

theorem layoutWord_or (a b c d a' b' c' d' : BitVec 8) :
    layoutWord a b c d ||| layoutWord a' b' c' d' = layoutWord (a ||| a') (b ||| b') (c ||| c') (d ||| d') := by
  apply BitVec.eq_of_getLsbD_eq
  intro i hi
  simp only [BitVec.getLsbD_or, layoutWord_getLsbD]
  split_ifs <;> rfl

/-- The lane that holds an L field is the word's low lane without the three bits above L. -/
theorem lenLane_eq (w : CommandWord) : (0#3 ++ lenField w : BitVec 8) = w.extractLsb' 0 8 &&& 0x1F#8 := by
  have lane : ∀ b : BitVec 8, (0#3 ++ b.extractLsb' 0 5 : BitVec 8) = b &&& 0x1F#8 := by decide
  have field : lenField w = (w.extractLsb' 0 8).extractLsb' 0 5 := by
    rw [BitVec.extractLsb'_extractLsb'_of_le (by decide)]
    rfl
  rw [field, lane]

/-- A row whose pattern is its opcode alone, filled with the bits of w that its mask asks nothing of. -/
theorem pattern_or_unmasked {r : OpcodeRow} {w : CommandWord} {op obj k low mobj mk mlow : BitVec 8}
    (hpattern : r.pattern = layoutWord op 0#8 0#8 0#8) (hmask : ~~~ r.mask = layoutWord 0#8 mobj mk mlow)
    (hobj : obj = objField w &&& mobj) (hk : k = offsetField w &&& mk) (hlow : low = w.extractLsb' 0 8 &&& mlow) :
    layoutWord op obj k low = r.pattern ||| (w &&& ~~~ r.mask) := by
  have unmasked := layoutWord_and (opField w) (objField w) (offsetField w) (w.extractLsb' 0 8) 0#8 mobj mk mlow
  rw [layoutWord_lanes] at unmasked
  rw [hpattern, hmask, unmasked, layoutWord_or, ← hobj, ← hk, ← hlow]
  simp

/-- The word of a row's command has the row's pattern, and the bits of w wherever the row's mask asks nothing. -/
theorem encode_of_mem_rowCommands {w : CommandWord} :
    ∀ e ∈ rowCommands w, encode e.2 = e.1.pattern ||| (w &&& ~~~ e.1.mask) := by
  have all (x : BitVec 8) : x = x &&& 0xFF#8 := BitVec.and_allOnes.symm
  have no (x : BitVec 8) : 0#8 = x &&& 0x00#8 := BitVec.and_zero.symm
  simp only [rowCommands, List.forall_mem_cons, List.not_mem_nil, false_imp_iff, implies_true, and_true]
  exact ⟨pattern_or_unmasked rfl rfl (no _) (no _) (no _),
    pattern_or_unmasked rfl rfl (all _) (no _) (lenLane_eq w),
    pattern_or_unmasked rfl rfl (all _) (no _) (lenLane_eq w),
    pattern_or_unmasked rfl rfl (no _) (no _) (no _),
    pattern_or_unmasked rfl rfl (all _) (no _) (no _),
    pattern_or_unmasked rfl rfl (no _) (no _) (no _),
    pattern_or_unmasked rfl rfl (all _) (no _) (no _),
    pattern_or_unmasked rfl rfl (no _) (no _) (no _),
    pattern_or_unmasked rfl rfl (no _) (all _) (no _),
    pattern_or_unmasked rfl rfl (no _) (all _) (no _),
    pattern_or_unmasked rfl rfl (no _) (all _) (no _),
    pattern_or_unmasked rfl rfl (no _) (no _) (no _)⟩

/-- Settles O2: the word and the command's word agree where the mask of their row asks for its pattern, and elsewhere
too, since there stand the fields. -/
theorem encodeOfDecodeIsTheWord : Obligations.EncodeOfDecodeIsTheWord := by
  intro w i h
  obtain ⟨r, hmem, hsel⟩ := decode_eq_ok_iff.1 h
  calc
    encode i = r.pattern ||| (w &&& ~~~ r.mask) := encode_of_mem_rowCommands _ hmem
    _ = w &&& (r.mask ||| ~~~ r.mask) := by rw [← selects_iff.1 hsel, BitVec.and_or_distrib_left]
    _ = w := by rw [BitVec.or_not_self, BitVec.and_allOnes]

/-- Settles O3: each clause is an entry of the table of rows. -/
theorem decodeFollowsTheOpcodeMap : Obligations.DecodeFollowsTheOpcodeMap := by
  refine ⟨fun w => ?_, fun w r r' hr hr' h h' => ?_, fun w => decode_eq_error_iff.2⟩
  · have entries : ∀ e ∈ rowCommands w, w &&& e.1.mask = e.1.pattern → decode w = .ok e.2 :=
      fun e hmem h => decode_eq_ok_iff.2 ⟨e.1, hmem, selects_iff.2 h⟩
    simp only [rowCommands, List.forall_mem_cons, List.not_mem_nil, false_imp_iff, implies_true, and_true] at entries
    exact entries
  · exact List.inj_on_of_nodup_map opcodeTable_opcodes_nodup hr hr'
      ((opField_of_selects hr (selects_iff.2 h)).symm.trans (opField_of_selects hr' (selects_iff.2 h')))

/-- Settles O4: the six legal words are those of their commands, and the other two are rejected by name. -/
theorem sampleWordsDecode : Obligations.SampleWordsDecode :=
  ⟨decode_encode .nop, decode_encode (.encq 0x47#8 6#5), decode_encode (.encc 0x32#8 2#5),
    decode_encode (.ppush 0x32#8), decode_encode (.rxpush 0x75#8), decode_encode (.rdw 2#8), rfl, rfl⟩

/-! ### Illegal words (R85, R171) -/

/-- Settles O5: an unassigned opcode is no row's, so a word is illegal exactly when no row selects it. -/
theorem illegalWordsChangeOnlyStatusAndSticky : Obligations.IllegalWordsChangeOnlyStatusAndSticky := by
  refine fun w => ⟨decode_eq_error_iff.trans ⟨fun none_selects => ?_, ?_⟩, fun e s h => hostCommand_illegal h s⟩
  · exact (Nat.lt_or_ge 0x0B (opField w).toNat).imp id fun assigned => ⟨assigned, none_selects⟩
  · rintro (unassigned | ⟨_, none_selects⟩) r hr hsel
    · have := opcodeTable_opcode_le r hr
      rw [← opField_of_selects hr (selects_iff.2 hsel)] at this
      exact absurd (this.trans_lt unassigned) (lt_irrefl _)
    · exact none_selects r hr hsel

/-! ### The assembler (R76) -/

theorem assemble_eq_ite {cap : Nat} {line : AsmLine} {p : Prop} [Decidable p] (h : line.wf cap = true ↔ p) :
    assemble cap line = if p then some (expandLine line) else none := if_congr h rfl rfl

theorem fitsByte_iff (v : Nat) : fitsByte v = true ↔ v < 256 := decide_eq_true_iff

theorem fitsLen_iff (v : Nat) : fitsLen v = true ↔ v < 32 := decide_eq_true_iff

/-- Settles O47: the acceptance of each line is the widths of its own operands. -/
theorem assemblerChecksOperands : Obligations.AssemblerChecksOperands := by
  have byteLen (obj len : Nat) : (fitsByte obj && fitsLen len) = true ↔ obj < 256 ∧ len < 32 := by
    rw [Bool.and_eq_true, fitsByte_iff, fitsLen_iff]
  exact ⟨fun _ obj len => assemble_eq_ite (byteLen obj len), fun _ obj len => assemble_eq_ite (byteLen obj len),
    fun _ b => assemble_eq_ite (fitsByte_iff b), fun _ b => assemble_eq_ite (fitsByte_iff b),
    fun _ k => assemble_eq_ite (fitsByte_iff k), fun _ k => assemble_eq_ite (fitsByte_iff k),
    fun _ k => assemble_eq_ite (fitsByte_iff k), fun _ => ⟨rfl, rfl, rfl, rfl, rfl⟩⟩

/-! ### The pseudo-instructions (R88) -/

theorem assemble_of_wf {cap : Nat} {line : AsmLine} (h : line.wf cap = true) :
    assemble cap line = some (expandLine line) := if_pos h

theorem assemble_of_not_wf {cap : Nat} {line : AsmLine} (h : ¬ line.wf cap = true) : assemble cap line = none :=
  if_neg h

theorem control_wf_iff {cap obj len : Nat} {ps : List Nat} : (AsmLine.control obj len ps).wf cap = true ↔
    obj < 256 ∧ len < 32 ∧ ps.length ≤ 16 ∧ ∀ p ∈ ps, p < 256 := by
  simp [AsmLine.wf, fitsByte_iff, fitsLen_iff, and_assoc]

theorem rxload_wf_iff {cap : Nat} {bs : List Nat} : (AsmLine.rxload bs).wf cap = true ↔
    bs.length ≤ cap ∧ ∀ b ∈ bs, b < 256 := by
  simp [AsmLine.wf, fitsByte_iff]

theorem setword_wf_iff {cap obj len raw : Nat} : (AsmLine.setword obj len raw).wf cap = true ↔
    obj < 256 ∧ len < 32 ∧ raw < 65536 := by
  simp [AsmLine.wf, fitsByte_iff, fitsLen_iff, and_assoc]

/-- SETWORD of a 16-bit value is CONTROL with the value's two bytes, high first: they fit a byte each. -/
theorem assemble_setword (cap obj len : Nat) {raw : Nat} (h : raw < 65536) :
    assemble cap (.setword obj len raw) = assemble cap (.control obj len [raw >>> 8, raw &&& 0xFF]) := by
  have high : raw >>> 8 = raw / 256 := Nat.shiftRight_eq_div_pow raw 8
  have low : raw &&& 0xFF = raw % 256 := Nat.and_two_pow_sub_one_eq_mod raw 8
  have same : (AsmLine.setword obj len raw).wf cap = (AsmLine.control obj len [raw / 256, raw % 256]).wf cap := by
    rw [Bool.eq_iff_iff, setword_wf_iff, control_wf_iff]
    simp
    omega
  rw [high, low, assemble, assemble, same]
  rfl

/-- RECV is RXLOAD then DECODE, under the same check. -/
theorem assemble_recv (cap : Nat) (bs : List Nat) :
    assemble cap (.recv bs) = (assemble cap (.rxload bs)).map fun is => is ++ [.decode] := by
  have same : (AsmLine.recv bs).wf cap = (AsmLine.rxload bs).wf cap := rfl
  rw [assemble, assemble, same, apply_ite (Option.map _)]
  rfl

/-- Settles O48, a clause per pseudo-instruction and per check. -/
theorem pseudoInstructionsExpand : Obligations.PseudoInstructionsExpand := fun cap =>
  ⟨fun _ _ => rfl,
    fun _ _ _ => assemble_of_wf,
    fun _ _ _ hmany => assemble_of_not_wf fun h =>
      have ⟨_, _, hfew, _⟩ := control_wf_iff.1 h
      absurd hfew (Nat.not_le.2 hmany),
    fun obj len _ => assemble_setword cap obj len,
    fun _ _ _ hwide => assemble_of_not_wf fun h =>
      have ⟨_, _, hraw⟩ := setword_wf_iff.1 h
      absurd hraw (Nat.not_lt.2 hwide),
    fun _ => assemble_of_wf,
    fun _ hlong => assemble_of_not_wf fun h =>
      have ⟨hfit, _⟩ := rxload_wf_iff.1 h
      absurd hfit (Nat.not_le.2 hlong),
    assemble_recv cap⟩

/-- Settles O45: RXCLR and the RXPUSHes leave the bytes written from RXBUF[0] on. -/
theorem rxloadStoresTheReply : Obligations.RxloadStoresTheReply := by
  intro s bs hs hlen
  obtain ⟨_, hcap⟩ := hs.rxCap_range
  rw [rxCapMax_eq] at hcap
  have past (i : Nat) (hi : bs.length ≤ i) : (s.rxbuf.writeBytes 0 bs).read i = s.rxbuf.read i := by
    rw [Memory.read_writeBytes, if_neg (by omega)]
  exact ⟨s.receive bs, execAll_rxload s hlen hcap, s.receive_rxlen (by omega),
    Memory.readBytes_writeBytes s.rxbuf 0 bs, past, rfl, ⟨rfl, rfl, rfl, rfl, rfl, rfl, rfl, rfl⟩, rfl, rfl, rfl,
    ⟨SameBytes.refl _, rfl⟩, ⟨SameBytes.refl _, rfl⟩, rfl, rfl, rfl⟩

/-- The frame encoded is the frame the host reads to send it. -/
theorem State.encoded_txFrame (s : State) {frame : List Byte} {n : Fin 22} (hn : n.val = frame.length) :
    (s.encoded frame n).txFrame = frame := by
  have short : n.val ≤ (txImage frame).length := by
    rw [hn, txImage, List.length_append]
    exact Nat.le_add_right ..
  calc
    (s.encoded frame n).txFrame = (txImage frame).take n.val := Memory.readBytes_writeBytes_take s.txbuf short
    _ = frame := by rw [txImage, List.take_left' hn.symm]

/-- Settles O46: the line expands to the commands that stage and encode its params. -/
theorem controlLineBuildsItsTelegram : Obligations.ControlLineBuildsItsTelegram := by
  intro s obj len ps hwf hmin hmax
  obtain ⟨_, hlen, hfew, _⟩ := control_wf_iff.1 hwf
  have value : (BitVec.ofNat 5 len).toNat = len := Nat.mod_eq_of_lt hlen
  have legal : lenLegal (BitVec.ofNat 5 len) = true := by
    rw [lenLegal_iff, value]
    exact ⟨hmin, hmax⟩
  have run := execAll_control s (obj := BitVec.ofNat 8 obj) legal (ps := ps.map (BitVec.ofNat 8))
    (by rw [List.length_map]; omega)
  rw [List.map_map] at run
  refine ⟨_, _, assemble_of_wf hwf, run, rfl, State.encoded_txFrame _ ?_, ?_⟩
  · exact (Nat.add_comm ..).trans (outFrame_length ..).symm
  · exact congrArg (5 + ·) (List.length_map _)

/-! ### The object-id table (R83) -/

/-- The objects in the table's order. -/
def objectTable : List ObjectId :=
  [.deviceType, .serialNo, .nominalVoltage, .nominalCurrent, .nominalPower, .articleNo, .manufacturer,
   .firmwareVersion, .voltageSetpoint, .currentSetpoint, .supplyControl, .actualStatus]

/-- Looking an object-id up in the table finds its object. -/
theorem objectTable_find_code (o : ObjectId) : (objectTable.find? fun x => x.code == o.code) = some o := by
  cases o <;> rfl

theorem ObjectId.code_injective (o o' : ObjectId) (h : o.code = o'.code) : o = o' :=
  Option.some.inj ((objectTable_find_code o).symm.trans (h ▸ objectTable_find_code o'))

/-- Every length the table gives is legal (R74). -/
theorem ObjectId.queryLen_legal {o : ObjectId} {len : BitVec 5} (h : o.queryLen = some len) : lenLegal len = true := by
  revert h
  cases o <;> rintro ⟨⟩ <;> rfl

theorem exec_encq_encoded {obj : Byte} {len : BitVec 5} (hlen : lenLegal len = true) (s : State) :
    exec (.encq obj len) s = .next (s.encoded (outFrame ttQuery obj len []) 5) :=
  encodeTelegram_encoded hlen

/-- Settles O51: a table query has a legal length, so it completes with its object-id behind the start-delimiter and
NODE. -/
theorem objectQueriesEncode : Obligations.ObjectQueriesEncode := by
  refine ⟨ObjectId.code_injective, fun o i s h => ?_⟩
  obtain ⟨len, hquery, rfl⟩ := Option.map_eq_some_iff.1 h
  exact ⟨_, exec_encq_encoded (ObjectId.queryLen_legal hquery) s, rfl,
    State.encoded_read s 5 (by rw [outFrame_length]; decide), rfl⟩

end Sys2Proof.Machine

/-! PROOFS. The checksum family (spec/40_checksum.md): the checksum is a sum, what it cannot see and what it always
sees, and that every frame the encoder builds verifies, in TXBUF and looped back through the receiver. -/

namespace Sys2Proof.Machine

/-! ### The checksum is the sum of the bytes (R100, R101, R104) -/

theorem Memory.csum_toNat (m : Memory) (i j : Nat) : (m.csum i j).toNat = sumBytes m i (j - i) % 65536 := by
  rw [Memory.csum, Sys2Proof.Machine.csum_toNat, byteSum_readBytes]

/-- Settles O38: CK_HI and CK_LO divide the checksum by 256. -/
theorem checksumIsTheSum : Obligations.ChecksumIsTheSum := by
  intro m i j _
  have sum := m.csum_toNat i j
  refine ⟨sum, ?_, ?_⟩
  · rw [ckHi, rawHigh_toNat, sum]
  · rw [ckLo, rawLow_toNat, sum, Nat.mod_mod_of_dvd _ (by decide)]

theorem sumBytes_le (m : Memory) (i n : Nat) : sumBytes m i n ≤ 255 * n := by
  simpa only [byteSum_readBytes, Memory.readBytes_length] using byteSum_le (m.readBytes i n)

/-- NODE adds nothing to the sum of an outbound telegram. -/
theorem byteSum_frameBody (tt : BitVec 2) (obj : Byte) (len : BitVec 5) (ps : List Byte) :
    byteSum (frameBody tt obj len ps) = (makeSD tt len).toNat + obj.toNat + byteSum ps := by
  simp [frameBody, Nat.add_assoc]

/-- Settles O40: outbound 18 bytes besides NODE, inbound RX_CAP - 2 bytes, each at most 255. -/
theorem checksumNeverWraps : Obligations.ChecksumNeverWraps := by
  refine ⟨fun tt obj len ps hps => ?_, fun s hs => ?_⟩
  · have params := byteSum_le ps
    have delimiter := (makeSD tt len).isLt
    have object := obj.isLt
    rw [byteSum_frameBody]
    omega
  · have bytes := sumBytes_le s.rxbuf 0 (s.rxlen.toNat - 2)
    have received := hs.rxlen_le
    obtain ⟨_, hcap⟩ := hs.rxCap_range
    rw [rxCapMax_eq] at hcap
    omega

/-! ### What the checksum does not see (R105) -/

theorem byteSum_eq_sum (bs : List Byte) : byteSum bs = (bs.map BitVec.toNat).sum := by
  induction bs with
  | nil => rfl
  | cons b bs ih => rw [byteSum_cons, ih, List.map_cons, List.sum_cons]

theorem byteSum_perm {as bs : List Byte} (h : as.Perm bs) : byteSum as = byteSum bs := by
  rw [byteSum_eq_sum, byteSum_eq_sum, (h.map BitVec.toNat).sum_eq]

theorem csum_congr {as bs : List Byte} (h : byteSum as = byteSum bs) : csum as = csum bs := by
  rw [csum, csum, h]

/-- Settles O41: in each case the exact sums already agree. -/
theorem checksumBlindSpots : Obligations.ChecksumBlindSpots := by
  refine ⟨fun as bs h => csum_congr (byteSum_perm h), fun as bs => csum_congr ?_,
    fun as bs cs x y x' y' h => csum_congr ?_⟩
  · simp [byteSum_append]
  · simp only [byteSum_append, byteSum_cons]
    omega

/-! ### A change of one byte is always seen (R103, R105) -/

theorem Memory.frameValid_iff {m : Memory} {n : Nat} :
    m.frameValid n = true ↔ m.calcChecksum n = m.recvChecksum n := beq_iff_eq

/-- A write outside a range leaves its bytes alone. -/
theorem Memory.readBytes_write_outside (m : Memory) {i n k : Nat} (b : Byte) (h : k < i ∨ i + n ≤ k) :
    (m.write k b).readBytes i n = m.readBytes i n :=
  Memory.readBytes_congr fun _ hlo hhi => Memory.read_write_other m b (by omega)

/-- A write inside a range puts its byte for the old one in the sum. -/
theorem sumBytes_write (m : Memory) {i n k : Nat} (b : Byte) (hlo : i ≤ k) (hhi : k < i + n) :
    sumBytes (m.write k b) i n + (m.read k).toNat = sumBytes m i n + b.toNat := by
  induction n generalizing i with
  | zero => omega
  | succ n ih =>
    rw [sumBytes_succ, sumBytes_succ]
    by_cases here : k = i
    · subst here
      have rest : sumBytes (m.write k b) (k + 1) n = sumBytes m (k + 1) n := by
        rw [← byteSum_readBytes, ← byteSum_readBytes, m.readBytes_write_outside b (.inl (Nat.lt_succ_self k))]
      rw [rest, Memory.read_write_same]
      omega
    · have rest := ih (i := i + 1) (by omega) (by omega)
      rw [Memory.read_write_other m b (Ne.symm here)]
      omega

/-- Two pairs of bytes make the same word only byte by byte. -/
theorem byte_append_inj {a b a' b' : Byte} : (a ++ b : Half) = a' ++ b' ↔ a = a' ∧ b = b' := by
  constructor
  · intro h
    have high (x y : Byte) : ckHi (x ++ y) = x := BitVec.extractLsb'_append_eq_left
    have low (x y : Byte) : ckLo (x ++ y) = y := BitVec.extractLsb'_append_eq_right
    exact ⟨by simpa only [high] using congrArg ckHi h, by simpa only [low] using congrArg ckLo h⟩
  · rintro ⟨rfl, rfl⟩
    rfl

/-- Another byte before the checksum changes the sum by less than the modulus. -/
theorem Memory.calcChecksum_write_ne (m : Memory) {n k : Nat} {b : Byte} (hk : k < n - 2) (hb : b ≠ m.read k) :
    (m.write k b).calcChecksum n ≠ m.calcChecksum n := by
  intro same
  have sums := congrArg BitVec.toNat same
  rw [Memory.calcChecksum, Memory.calcChecksum, Memory.csum_toNat, Memory.csum_toNat, Nat.sub_zero] at sums
  have exchanged := sumBytes_write m (i := 0) (n := n - 2) b (Nat.zero_le k) (by omega)
  have old := (m.read k).isLt
  have new := b.isLt
  exact hb (BitVec.eq_of_toNat_eq (by omega))

/-- Another byte in the checksum changes the checksum the frame carries. -/
theorem Memory.recvChecksum_write_ne (m : Memory) {n k : Nat} {b : Byte} (hk : k = n - 2 ∨ k = n - 2 + 1)
    (hb : b ≠ m.read k) : (m.write k b).recvChecksum n ≠ m.recvChecksum n := by
  intro same
  obtain ⟨high, low⟩ := byte_append_inj.1 same
  rcases hk with rfl | rfl
  · exact hb (by rwa [Memory.read_write_same] at high)
  · exact hb (by rwa [Memory.read_write_same] at low)

/-- A frame that verifies does not when one of its bytes is replaced by another, in the checksum or before it. -/
theorem Memory.frameValid_write_ne {m : Memory} {n k : Nat} {b : Byte} (h : m.frameValid n = true) (hn : 2 ≤ n)
    (hk : k < n) (hb : b ≠ m.read k) : (m.write k b).frameValid n = false := by
  rw [← Bool.not_eq_true, Memory.frameValid_iff]
  rw [Memory.frameValid_iff] at h
  by_cases before : k < n - 2
  · have carried : (m.write k b).recvChecksum n = m.recvChecksum n := by
      rw [Memory.recvChecksum, Memory.read2_eq, Memory.read_write_other m b (by omega),
        Memory.read_write_other m b (by omega)]
      rfl
    rw [carried, ← h]
    exact m.calcChecksum_write_ne before hb
  · have computed : (m.write k b).calcChecksum n = m.calcChecksum n := by
      rw [Memory.calcChecksum, Memory.csum, m.readBytes_write_outside b (by omega)]
      rfl
    rw [computed, h]
    exact (m.recvChecksum_write_ne (by omega) hb).symm

/-- Flipping a bit makes another byte. -/
theorem flipBit_ne (b : Byte) {j : Nat} (hj : j < 8) : b ^^^ 1#8 <<< j ≠ b := by
  have bit : ∀ j < 8, 1#8 <<< j ≠ 0#8 := by decide
  intro same
  exact bit j hj (BitVec.xor_right_inj b |>.1 (same.trans BitVec.xor_zero.symm))

/-- DECODE ends with OK only on a frame that verifies. -/
theorem decode_ok {s t : State} (h : exec .decode s = .next t) (hok : t.status = 0x00#8) :
    s.rxOvf = false ∧ s.rxlen.toNat ≤ s.rxCap ∧ s.rxbuf.frameValid s.rxlen.toNat = true := by
  rcases execDecode_cases s with ⟨_, e⟩ | ⟨_, _, e⟩ | ⟨_, _, _, e⟩ | ⟨ho, _, hc, e⟩
  · obtain rfl := next_inj.1 (e.symm.trans h)
    exact nomatch hok
  · obtain rfl := next_inj.1 (e.symm.trans h)
    exact nomatch hok
  · exact nomatch e.symm.trans h
  · obtain rfl := next_inj.1 (e.symm.trans h)
    refine ⟨ho, hc, ?_⟩
    by_contra invalid
    rw [if_neg invalid] at hok
    exact nomatch hok

/-- DECODE ends with CKSUM_BAD on a frame that does not verify (R133). -/
theorem decode_cksumBad {s : State} (ho : s.rxOvf = false) (hn : 6 ≤ s.rxlen.toNat) (hc : s.rxlen.toNat ≤ s.rxCap)
    (invalid : s.rxbuf.frameValid s.rxlen.toNat = false) :
    ∃ u, exec .decode s = .next u ∧ u.status = 0x01#8 ∧ u.rxPresent = true ∧ u.rxValid = false :=
  ⟨_, execDecode_decoded ho hn hc, by rw [invalid]; rfl, rfl, invalid⟩

/-- Settles O42: a flipped bit is another byte, and any other byte in the frame is seen. -/
theorem singleBitErrorsAreDetected : Obligations.SingleBitErrorsAreDetected := by
  intro s t i j _ hmin h hok hi hj
  obtain ⟨ho, hc, valid⟩ := decode_ok h hok
  have two : 2 ≤ s.rxlen.toNat := by omega
  exact decode_cksumBad ho hmin hc (Memory.frameValid_write_ne valid two hi (flipBit_ne _ hj))

/-! ### Frames the encoder built (R102, R106) -/

section
variable (tt : BitVec 2) (obj : Byte) (len : BitVec 5) (ps : List Byte)

theorem outFrame_take_body :
    (outFrame tt obj len ps).take ((outFrame tt obj len ps).length - 2) = frameBody tt obj len ps := by
  rw [outFrame_length, outFrame]
  exact List.take_left' (frameBody_length ..)

/-- The checksum an outbound telegram carries is that of its body. -/
theorem replyChecksum_outFrame : replyChecksum (outFrame tt obj len ps) = csum (frameBody tt obj len ps) := by
  have tail (k : Nat) (d : Byte) : (outFrame tt obj len ps).getD ((frameBody tt obj len ps).length + k) d =
      [ckHi (csum (frameBody tt obj len ps)), ckLo (csum (frameBody tt obj len ps))].getD k d := by
    rw [outFrame, List.getD_append_right _ _ _ _ (Nat.le_add_right ..), Nat.add_sub_cancel_left]
  have high := tail 0 0x00#8
  have low := tail 1 0x00#8
  rw [frameBody_length] at high low
  rw [replyChecksum, outFrame_length]
  exact (congrArg₂ (fun a b : Byte => (a ++ b : Half)) high low).trans (ckHi_append_ckLo _)

/-- An outbound telegram carries the checksum of the bytes before its last two. -/
theorem outFrame_verifies :
    csum ((outFrame tt obj len ps).take ((outFrame tt obj len ps).length - 2)) =
      replyChecksum (outFrame tt obj len ps) := by
  rw [outFrame_take_body, replyChecksum_outFrame]

/-- The TXBUF image of an outbound telegram verifies. -/
theorem Memory.frameValid_txImage (m : Memory) :
    (m.writeBytes 0 (txImage (outFrame tt obj len ps))).frameValid (outFrame tt obj len ps).length = true := by
  have two : 2 ≤ (outFrame tt obj len ps).length := by
    rw [outFrame_length]
    omega
  have image (i : Nat) (hi : i < (outFrame tt obj len ps).length) :
      (m.writeBytes 0 (txImage (outFrame tt obj len ps))).read i =
        (m.writeBytes 0 (outFrame tt obj len ps)).read i := by
    rw [Memory.read_writeBytes_zero _ (by rw [txImage, List.length_append]; omega), txImage_getD_frame hi,
      Memory.read_writeBytes_zero _ hi]
  rw [Memory.frameValid_congr two image, Memory.frameValid_iff, Memory.calcChecksum_writeBytes,
    Memory.recvChecksum_writeBytes _ two, outFrame_verifies]

end

/-- Only an encode writes TXBUF and TXLEN, and it writes a frame that verifies. -/
theorem CommandEffect.txFrameVerifies {i : Instr} {s t : State} (h : CommandEffect s i t) (hs : TxFrameVerifies s) :
    TxFrameVerifies t := by
  cases h with
  | @encoded _ obj len _ _ tt ps n hn =>
    have length : n.val = (outFrame tt obj len ps).length := by rw [hn, outFrame_length]
    refine .inr ?_
    rw [State.completed_txbuf, State.completed_txlen, State.setTx_txbuf, State.setTx_txlen, length]
    exact Memory.frameValid_txImage tt obj len ps s.txbuf
  | _ => exact hs

/-- Settles O36, by what a step can be: after power-on and a reset TXBUF holds no frame, and every command keeps it that
the frame there verifies. -/
theorem transmitFrameAlwaysVerifies : Obligations.TransmitFrameAlwaysVerifies :=
  ⟨fun _ => .inl rfl, fun _ _ _ =>
    step_keeps
      (host := fun _ _ _ h => h)
      (reset := fun _ _ => .inl rfl)
      (illegal := fun _ h => h)
      (command := fun _ _ _ hs h => h.txFrameVerifies hs)⟩

/-! ### The loop-back (R106) -/

theorem exec_encc_encoded {obj : Byte} {len : BitVec 5} (hlen : lenLegal len = true) (s : State) :
    exec (.encc obj len) s =
      .next (s.encoded (outFrame ttControl obj len s.stagedParams) ⟨5 + s.plen.val, by omega⟩) :=
  encodeTelegram_encoded hlen

/-- A reply too short to be a telegram is received and reported as ERR_SHORT (R133). -/
theorem execAll_exchange_short (s : State) {bs : List Byte} (hshort : bs.length < 6) (h : bs.length ≤ s.rxCap)
    (hcap : s.rxCap ≤ 128) :
    execAll (.rxclr :: (bs.map Instr.rxpush ++ [.decode])) s = some ((s.receive bs).raised .errShort) := by
  have short : exec .decode (s.receive bs) = .next ((s.receive bs).raised .errShort) :=
    execDecode_short rfl (by rwa [s.receive_rxlen (by omega)])
  rw [← List.cons_append, execAll_append, execAll_rxload s h hcap, Option.bind_some, execAll_cons short, execAll_nil]

section
variable {s : State} (hs : Inv s)
include hs

/-- An outbound telegram of 6 bytes or more, looped back, decodes with OK: DECODE takes its byte 3, the first param, for
the object-id. -/
theorem loopBack_verifies {tt : BitVec 2} {obj : Byte} {len : BitVec 5} {ps : List Byte} (hmin : 1 ≤ ps.length)
    (hmax : ps.length ≤ 16) :
    ∃ u, execAll (.rxclr :: ((outFrame tt obj len ps).map Instr.rxpush ++ [.decode])) s = some u ∧
      u.status = 0x00#8 ∧ u.rxPresent = true ∧ u.rxValid = true ∧ u.rxSd = makeSD tt len ∧
      u.rxObj = ps.getD 0 0x00#8 ∧ u.rxDlen.toNat = ps.length - 1 := by
  obtain ⟨hcapMin, hcapMax⟩ := hs.rxCap_range
  rw [rxCapMin_eq] at hcapMin
  rw [rxCapMax_eq] at hcapMax
  have length := outFrame_length tt obj len ps
  have verifies := outFrame_verifies tt obj len ps
  have byte {k : Nat} (hk : k < (outFrame tt obj len ps).length) := Memory.read_writeBytes_zero s.rxbuf hk
  have param : (outFrame tt obj len ps).getD 3 0x00#8 = ps.getD 0 0x00#8 := by
    obtain ⟨p, ps, rfl⟩ := List.exists_cons_of_length_pos hmin
    rfl
  have dlen : (BitVec.ofNat 8 ((outFrame tt obj len ps).length - Config.minRx)).toNat = ps.length - 1 := by
    rw [BitVec.toNat_ofNat, minRx_eq, length]
    omega
  refine ⟨_, execAll_exchange s (by omega) (by omega) hcapMax, ?_, rfl, beq_iff_eq.2 verifies, byte (by omega),
    (byte (by omega)).trans param, dlen⟩
  rw [State.decodedReply, State.completed_status, if_pos (beq_iff_eq.2 verifies)]
  rfl

/-- An outbound telegram without params is too short to loop back. -/
theorem loopBack_short {tt : BitVec 2} {obj : Byte} {len : BitVec 5} :
    ∃ u, execAll (.rxclr :: ((outFrame tt obj len []).map Instr.rxpush ++ [.decode])) s = some u ∧
      u.status = 0x04#8 := by
  obtain ⟨hcapMin, hcapMax⟩ := hs.rxCap_range
  have length := outFrame_length tt obj len []
  rw [rxCapMin_eq] at hcapMin
  exact ⟨_, execAll_exchange_short s (by rw [length]; decide) (by rw [length, List.length_nil]; omega) hcapMax, rfl⟩

end

/-- Settles O44: the frame in TXBUF is the outbound telegram, and from the legal state the encode leaves it loops back
as any such telegram does. -/
theorem loopedBackFramesVerify : Obligations.LoopedBackFramesVerify := by
  intro s t obj len hs hmin hmax
  have hlen := (lenLegal_iff len).2 ⟨hmin, hmax⟩
  have legal {i : Instr} (h : exec i s = .next t) : Inv t := (exec_effect h).inv hs
  have encc := exec_encc_encoded (obj := obj) hlen s
  have frameLength : 5 + s.plen.val = (outFrame ttControl obj len s.stagedParams).length := by
    rw [outFrame_length, stagedParams_length, Nat.add_comm]
  refine ⟨fun h hplen => ?_, fun h => ?_⟩
  · have ht := legal h
    obtain rfl := next_inj.1 (encc.symm.trans h)
    obtain ⟨u, run, status, present, valid, sd, object, dlen⟩ := loopBack_verifies ht (tt := ttControl) (obj := obj)
      (len := len) (ps := s.stagedParams) (by rwa [stagedParams_length]) (by rw [stagedParams_length]; omega)
    refine ⟨u, by rwa [State.encoded_txFrame s frameLength], status, present, valid, ?_, ?_, ?_⟩
    · rw [sd, State.encoded_read s _ (by omega)]
      rfl
    · rw [object, State.stagedParams, Memory.readBytes_getD _ _ _ _ hplen]
    · rw [dlen, stagedParams_length]
  · rcases h with h | ⟨h, hplen⟩
    · have ht := legal h
      obtain rfl := next_inj.1 ((exec_encq_encoded hlen s).symm.trans h)
      rw [State.encoded_txFrame s (by rw [outFrame_length]; rfl)]
      exact loopBack_short ht
    · have ht := legal h
      have unstaged : s.stagedParams = [] := List.eq_nil_of_length_eq_zero (by rw [stagedParams_length, hplen])
      rw [unstaged] at encc frameLength
      obtain rfl := next_inj.1 (encc.symm.trans h)
      rw [State.encoded_txFrame s frameLength]
      exact loopBack_short ht

end Sys2Proof.Machine

/-! PROOFS. The encode family (spec/41_encode.md): the start-delimiter as its fields side by side, the telegrams ENCQ
and ENCC leave in TXBUF byte by byte, and the staging of params by PCLR and PPUSH. -/

namespace Sys2Proof.Machine

/-! ### The start-delimiter (R78, R110) -/

section
variable (tt : BitVec 2) {len : BitVec 5} (hmin : 1 ≤ len.toNat) (hmax : len.toNat ≤ 16)
include hmin hmax

/-- Of a legal length, L - 1 fits its four bits. -/
theorem lenBits_setWidth : ((len - 1#5).setWidth 4).setWidth 8 = len.setWidth 8 - 1#8 := by
  apply BitVec.eq_of_toNat_eq
  simp only [BitVec.toNat_setWidth, BitVec.toNat_sub, BitVec.toNat_ofNat]
  omega

/-- The fields of a start-delimiter stand side by side: the type, 0b11, and L - 1. -/
theorem makeSD_eq_append : makeSD tt len = tt ++ 0b11#2 ++ (len - 1#5).setWidth 4 := by
  have shifted := setWidth_append_eq_or (k := 8) (tt ++ 0b11#2) ((len - 1#5).setWidth 4)
  rw [BitVec.setWidth_eq, setWidth_append_eq_or tt, BitVec.shiftLeft_or_distrib, ← BitVec.shiftLeft_add,
    lenBits_setWidth hmin hmax] at shifted
  exact shifted.symm

theorem makeSD_toNat : (makeSD tt len).toNat = tt.toNat * 64 + 0x30 + (len.toNat - 1) := by
  rw [makeSD_eq_append tt hmin hmax, BitVec.toNat_append, BitVec.toNat_append,
    ← Nat.shiftLeft_add_eq_or_of_lt (BitVec.isLt _), ← Nat.shiftLeft_add_eq_or_of_lt (BitVec.isLt _),
    Nat.shiftLeft_eq, Nat.shiftLeft_eq, BitVec.toNat_setWidth, BitVec.toNat_sub]
  simp only [BitVec.toNat_ofNat]
  omega

theorem makeSD_eq_ofNat : makeSD tt len = BitVec.ofNat 8 (tt.toNat * 64 + 0x30 + (len.toNat - 1)) := by
  rw [← makeSD_toNat tt hmin hmax, BitVec.ofNat_toNat, BitVec.setWidth_eq]

end

/-- Settles O43: each field of the start-delimiter is a digit of its value. -/
theorem startDelimiterRoundTrips : Obligations.StartDelimiterRoundTrips := by
  intro tt len hmin hmax
  have value := makeSD_toNat tt hmin hmax
  have type := tt.isLt
  refine ⟨value, BitVec.eq_of_toNat_eq ?_, BitVec.eq_of_toNat_eq ?_, ?_⟩
  · rw [BitVec.extractLsb'_toNat, Nat.shiftRight_eq_div_pow, value]
    omega
  · rw [BitVec.extractLsb'_toNat, Nat.shiftRight_eq_div_pow, value, BitVec.toNat_ofNat]
    omega
  · rw [BitVec.extractLsb'_toNat, Nat.shiftRight_zero, value]
    omega

/-! ### The bytes of an outbound telegram (R80, R101) -/

theorem ckHi_csum (bs : List Byte) : ckHi (csum bs) = BitVec.ofNat 8 (byteSum bs % 65536 / 256) := by
  apply BitVec.eq_of_toNat_eq
  rw [ckHi, rawHigh_toNat, csum_toNat, BitVec.toNat_ofNat]
  omega

theorem ckLo_csum (bs : List Byte) : ckLo (csum bs) = BitVec.ofNat 8 (byteSum bs % 65536) := by
  apply BitVec.eq_of_toNat_eq
  rw [ckLo, rawLow_toNat, csum_toNat, BitVec.toNat_ofNat]

section
variable (tt : BitVec 2) (obj : Byte) (len : BitVec 5) (ps : List Byte)

theorem outFrame_getD_param {i : Nat} (hi : i < ps.length) (d : Byte) :
    (outFrame tt obj len ps).getD (3 + i) d = ps.getD i d := by
  have body : (frameBody tt obj len ps).getD (3 + i) d = ps.getD i d := by
    rw [Nat.add_comm]
    rfl
  rw [outFrame, List.getD_append _ _ _ _ (by rw [frameBody_length]; omega), body]

/-- The two bytes behind the params are the checksum's. -/
theorem outFrame_getD_checksum (k : Nat) (d : Byte) : (outFrame tt obj len ps).getD (3 + ps.length + k) d =
    [ckHi (csum (frameBody tt obj len ps)), ckLo (csum (frameBody tt obj len ps))].getD k d := by
  have behind : 3 + ps.length + k = (frameBody tt obj len ps).length + k := by
    rw [frameBody_length, Nat.add_comm 3]
  rw [behind, outFrame, List.getD_append_right _ _ _ _ (Nat.le_add_right ..), Nat.add_sub_cancel_left]

/-- With a legal length the sum of a telegram's body is that of its parts (R100). -/
theorem byteSum_frameBody_legal (hmin : 1 ≤ len.toNat) (hmax : len.toNat ≤ 16) : byteSum (frameBody tt obj len ps) =
    tt.toNat * 64 + 0x30 + (len.toNat - 1) + obj.toNat + byteSum ps := by
  rw [byteSum_frameBody, makeSD_toNat tt hmin hmax]

end

/-! ### TXBUF after an encode (R24, R111, R112) -/

section
variable (s : State) {frame : List Byte} (n : Fin 22)

/-- Behind the frame an encode writes 0x00 to the end of TXBUF. -/
theorem State.encoded_read_past {i : Nat} (hi : frame.length ≤ i) (hend : i ≤ 20) :
    (s.encoded frame n).txbuf.read i = 0x00#8 := by
  have image : i < (txImage frame).length := by
    rw [txImage, List.length_append, List.length_replicate, txMax_eq]
    omega
  exact (Memory.read_writeBytes_zero _ image).trans (txImage_getD_past hi)

/-- An encode writes no index outside TXBUF (R51). -/
theorem State.encoded_read_outside (hframe : frame.length ≤ 21) {i : Nat} (hi : 21 ≤ i) :
    (s.encoded frame n).txbuf.read i = s.txbuf.read i := by
  have outside : ¬ (0 ≤ i ∧ i < 0 + (txImage frame).length) := by
    rw [txImage_length hframe]
    omega
  exact (Memory.read_writeBytes ..).trans (if_neg outside)

/-- An encode that completes writes TXBUF, TXLEN and STATUS only. -/
theorem State.encoded_frame :
    (s.encoded frame n).status = 0x00#8 ∧ (s.encoded frame n).sticky = s.sticky ∧
      (s.encoded frame n).result = s.result ∧ SameParam s (s.encoded frame n) ∧ SameRx s (s.encoded frame n) ∧
      SameDecoded s (s.encoded frame n) ∧ SameHost s (s.encoded frame n) :=
  ⟨rfl, rfl, rfl, ⟨SameBytes.refl _, rfl⟩, ⟨SameBytes.refl _, rfl, rfl⟩,
    ⟨rfl, rfl, rfl, rfl, rfl, rfl, rfl, rfl⟩, rfl, rfl, rfl⟩

end

/-- Settles O12: the query is the telegram without params, too short for its sum to wrap. -/
theorem encqBuildsTheQuery : Obligations.EncqBuildsTheQuery := by
  refine fun s obj len => ⟨fun ⟨hmin, hmax⟩ => ?_, fun illegal => ?_⟩
  · have length : (outFrame ttQuery obj len []).length = 5 := outFrame_length ..
    have byte {i : Nat} (hi : i < 5) := s.encoded_read 5 (hi.trans_eq length.symm)
    have sum : byteSum (frameBody ttQuery obj len []) = 0x70 + (len.toNat - 1) + obj.toNat :=
      byteSum_frameBody_legal ttQuery obj len [] hmin hmax
    have exact_sum : byteSum (frameBody ttQuery obj len []) % 65536 = 0x70 + (len.toNat - 1) + obj.toNat := by
      have := obj.isLt
      rw [sum, Nat.mod_eq_of_lt (by omega)]
    refine ⟨_, exec_encq_encoded ((lenLegal_iff len).2 ⟨hmin, hmax⟩) s, rfl, ?_, byte (by decide),
      byte (by decide), ?_, ?_, fun i hi => s.encoded_read_past 5 (length.trans_le hi),
      fun i => s.encoded_read_outside 5 (length.trans_le (by decide)), s.encoded_frame 5⟩
    · exact (byte (by decide)).trans (makeSD_eq_ofNat ttQuery hmin hmax)
    · rw [byte (by decide), ← exact_sum, ← ckHi_csum]
      rfl
    · rw [byte (by decide), ← exact_sum, ← ckLo_csum]
      rfl
  · exact encodeTelegram_illegal ((lenLegal_eq_false_iff len).2 illegal)

/-- Settles O13: the params of the telegram are the staged bytes, so its length and its sum are theirs and those of the
three bytes before them. -/
theorem enccBuildsTheControlTelegram : Obligations.EnccBuildsTheControlTelegram := by
  refine fun s obj len => ⟨fun ⟨hmin, hmax⟩ => ?_, fun illegal => ?_⟩
  · have count := stagedParams_length s
    have length : (outFrame ttControl obj len s.stagedParams).length = 5 + s.plen.val := by
      rw [outFrame_length, count, Nat.add_comm]
    have byte {i : Nat} (hi : i < 5 + s.plen.val) :=
      s.encoded_read ⟨5 + s.plen.val, by omega⟩ (hi.trans_eq length.symm)
    have checksum := outFrame_getD_checksum ttControl obj len s.stagedParams
    have sum : byteSum (frameBody ttControl obj len s.stagedParams) =
        0xF0 + (len.toNat - 1) + obj.toNat + sumBytes s.param 0 s.plen.val := by
      rw [← byteSum_readBytes]
      exact byteSum_frameBody_legal ttControl obj len s.stagedParams hmin hmax
    rw [count] at checksum
    refine ⟨_, exec_encc_encoded ((lenLegal_iff len).2 ⟨hmin, hmax⟩) s, rfl, ?_, byte (by omega), byte (by omega),
      fun i hi => ?_, ?_, ?_, fun i hi => s.encoded_read_past _ (length.trans_le hi),
      fun i => s.encoded_read_outside _ (length.trans_le (by omega)), s.encoded_frame _⟩
    · exact (byte (by omega)).trans (makeSD_eq_ofNat ttControl hmin hmax)
    · rw [byte (by omega), outFrame_getD_param _ _ _ _ (hi.trans_eq count.symm), State.stagedParams,
        Memory.readBytes_getD _ _ _ _ hi, Nat.zero_add]
    · rw [byte (by omega), ← sum, ← ckHi_csum]
      exact checksum 0 _
    · rw [byte (by omega), ← sum, ← ckLo_csum, show 4 + s.plen.val = 3 + s.plen.val + 1 by omega]
      exact checksum 1 _
  · exact encodeTelegram_illegal ((lenLegal_eq_false_iff len).2 illegal)

/-! ### Staging params (R113, R114) -/

/-- Settles O14: PCLR has one outcome, and its writes are those of PLEN and of a completion with OK. -/
theorem pclrEmptiesTheStage : Obligations.PclrEmptiesTheStage := fun _ => rfl

/-- Settles O15, by the two outcomes of PPUSH. -/
theorem ppushStagesOneByte : Obligations.PpushStagesOneByte := by
  intro s b
  rcases execPpush_cases b s with ⟨hroom, staged⟩ | ⟨hfull, reported⟩
  · refine ⟨fun _ => ⟨_, staged, Memory.read_write_same .., fun i => Memory.read_write_other s.param b, rfl, rfl,
      rfl, rfl, ⟨SameBytes.refl _, rfl⟩, ⟨SameBytes.refl _, rfl, rfl⟩, ⟨rfl, rfl, rfl, rfl, rfl, rfl, rfl, rfl⟩,
      rfl, rfl, rfl⟩, fun hfull => ?_⟩
    exact absurd hfull (Nat.ne_of_lt hroom)
  · exact ⟨fun hroom => absurd hfull hroom, fun _ => reported⟩

end Sys2Proof.Machine

/-! PROOFS. The decode family (spec/42_decode.md): what RXCLR and RXPUSH leave in the receiver, and the telegram DECODE
reads out of RXBUF, register by register, with its verdict. -/

namespace Sys2Proof.Machine

/-! ### Receiving (R130 to R132) -/

/-- Settles O16: RXCLR has one outcome, and its writes are those of the emptied receiver, of ClearRx and of a completion
with OK. -/
theorem rxclrEmptiesTheReceiver : Obligations.RxclrEmptiesTheReceiver := fun _ => rfl

/-- ClearRx leaves no telegram, and ending the command brings none back (R130). -/
theorem State.clearRx_completed_noTelegram (e : StatusCode) (s : State) : NoTelegram (s.clearRx.completed e) :=
  ⟨rfl, rfl, rfl, rfl, rfl, rfl, rfl, rfl⟩

/-- Below the capacity the count of received bytes does not wrap (R6, R29). -/
theorem rxlen_succ_toNat {n : BitVec 8} {cap : Nat} (hroom : n.toNat < cap) (hcap : cap ≤ 128) :
    (n + 1#8).toNat = n.toNat + 1 := by
  rw [BitVec.toNat_add, BitVec.toNat_ofNat]
  omega

/-- Settles O17, by the outcomes of RXPUSH at and below the capacity. -/
theorem rxpushAppendsOrOverflows : Obligations.RxpushAppendsOrOverflows := by
  intro s b hcap
  rcases execRxpush_cases b s with ⟨hfull, overflowed⟩ | ⟨hpast, _⟩ | ⟨hroom, appended⟩
  · exact ⟨fun hroom => absurd hfull (Nat.ne_of_lt hroom), fun _ => overflowed⟩
  · exact ⟨fun hroom => absurd hroom (Nat.not_lt_of_gt hpast), fun hfull => absurd hfull (Nat.ne_of_gt hpast)⟩
  · refine ⟨fun _ => ⟨_, appended, Memory.read_write_same .., fun i => Memory.read_write_other s.rxbuf b,
      rxlen_succ_toNat hroom hcap, rfl, State.clearRx_completed_noTelegram .., rfl, rfl, rfl,
      ⟨SameBytes.refl _, rfl⟩, ⟨SameBytes.refl _, rfl⟩, rfl, rfl, rfl⟩, fun hfull => ?_⟩
    exact absurd hfull (Nat.ne_of_lt hroom)

/-! ### Decoding (R133) -/

/-- The checksum a frame carries is its last two bytes, the high one first (R55, R103). -/
theorem Memory.recvChecksum_toNat (m : Memory) {n : Nat} (hn : 2 ≤ n) :
    (m.recvChecksum n).toNat = (m.read (n - 2)).toNat * 256 + (m.read (n - 1)).toNat := by
  have last : n - 2 + 1 = n - 1 := by omega
  rw [Memory.recvChecksum, Memory.read2_eq, last, BitVec.toNat_append,
    ← Nat.shiftLeft_add_eq_or_of_lt (BitVec.isLt _), Nat.shiftLeft_eq]

/-- The checksum computed over a frame is the sum of the bytes before its last two (R100, R103). -/
theorem Memory.calcChecksum_toNat (m : Memory) (n : Nat) : (m.calcChecksum n).toNat = sumBytes m 0 (n - 2) % 65536 :=
  m.csum_toNat 0 (n - 2)

/-- RX_DLEN counts the data bytes: those but the four before them and the checksum's two (R36). -/
theorem State.setDecoded_rxDlen_toNat (s : State) (recv computed : Half) :
    (s.setDecoded s.rxlen.toNat recv computed).rxDlen.toNat = s.rxlen.toNat - 6 :=
  Nat.mod_eq_of_lt (Nat.lt_of_le_of_lt (Nat.sub_le ..) s.rxlen.isLt)

/-- Settles O18, by the outcomes of DECODE in the order of its checks. The decoded telegram is there register by
register; the code DECODE ends with is the verdict on the checksum. -/
theorem decodeParsesAndVerifies : Obligations.DecodeParsesAndVerifies := by
  refine fun s hcap => ⟨execDecode_overflowed, execDecode_short, fun hovf hmin => ?_⟩
  have dlen := s.setDecoded_rxDlen_toNat (s.rxbuf.recvChecksum s.rxlen.toNat) (s.rxbuf.calcChecksum s.rxlen.toNat)
  refine ⟨_, execDecode_decoded hovf hmin hcap, rfl, rfl, rfl, rfl, dlen,
    s.rxbuf.recvChecksum_toNat (by omega), s.rxbuf.calcChecksum_toNat _, rfl, fun agree => ?_, fun differ => ?_, rfl,
    ⟨SameBytes.refl _, rfl⟩, ⟨SameBytes.refl _, rfl⟩, ⟨SameBytes.refl _, rfl, rfl⟩, rfl, rfl, rfl⟩
  · have valid : s.rxbuf.frameValid s.rxlen.toNat = true := Memory.frameValid_iff.2 agree
    rw [if_pos valid]
    exact ⟨rfl, rfl⟩
  · have invalid : ¬ s.rxbuf.frameValid s.rxlen.toNat = true := mt Memory.frameValid_iff.1 differ
    rw [if_neg invalid]
    exact ⟨rfl, rfl⟩

end Sys2Proof.Machine

/-! PROOFS. The field-read family (spec/43_field_read.md): in a legal state a field that DataCheck accepts lies inside
RXBUF, so each field read has the outcomes of its rule and no other; the values RESULT takes. -/

namespace Sys2Proof.Machine

/-! ### The outcomes of a field read in a legal state (R39, R150) -/

section
variable {s : State} (hs : Inv s)
include hs

/-- The data field and the two checksum bytes behind it end inside RXBUF (R29, R39). -/
theorem Inv.dataField_le (hp : s.rxPresent = true) : 4 + s.rxDlen.toNat + 2 ≤ s.rxCap := by
  obtain ⟨_, hlen⟩ := hs.decoded_present hp
  exact hlen.trans_le hs.rxlen_le

/-- RDB, RDW and RDF share their outcomes: they differ in the width of the field and the value RESULT takes. -/
theorem readField_outcomes {k : BitVec 8} {width : Nat} {v : Memory → Nat → BitVec 32} {value : BitVec 32}
    (hvalue : v s.rxbuf (4 + k.toNat) = value) :
    (s.rxPresent = false →
      readField k width v s = .next { s with status := 0x06#8, sticky := s.sticky ||| 0x00000040#32 }) ∧
    (s.rxPresent = true → s.rxDlen.toNat < k.toNat + width →
      readField k width v s = .next { s with status := 0x07#8, sticky := s.sticky ||| 0x00000080#32 }) ∧
    (s.rxPresent = true → k.toNat + width ≤ s.rxDlen.toNat →
      readField k width v s = .next { s with result := value, status := 0x00#8 }) := by
  refine ⟨readField_absent, readField_outOfRange, fun hp hd => ?_⟩
  have inside := hs.dataField_le hp
  rw [readField_value hp hd (by omega), hvalue]
  rfl

end

/-! ### The values read (R55, R151 to R153) -/

/-- Appended parts are digits of the whole, the high part first. -/
theorem append_toNat {n m : Nat} (x : BitVec n) (y : BitVec m) : (x ++ y).toNat = x.toNat * 2 ^ m + y.toNat := by
  rw [BitVec.toNat_append, ← Nat.shiftLeft_add_eq_or_of_lt y.isLt, Nat.shiftLeft_eq]

/-- A word is its two bytes in base 256, zero-extended (R55, R152). -/
theorem Memory.read2_setWidth (m : Memory) (i : Nat) :
    (m.read2 i).setWidth 32 = BitVec.ofNat 32 ((m.read i).toNat * 2 ^ 8 + (m.read (i + 1)).toNat) := by
  rw [← append_toNat, BitVec.ofNat_toNat, Memory.read2_eq]

/-- A four-byte pattern is its bytes in base 256 (R55, R153). -/
theorem Memory.read4_eq_ofNat (m : Memory) (i : Nat) :
    m.read4 i = BitVec.ofNat 32 ((m.read i).toNat * 2 ^ 24 + (m.read (i + 1)).toNat * 2 ^ 16 +
      (m.read (i + 2)).toNat * 2 ^ 8 + (m.read (i + 3)).toNat) := by
  have value : (m.read4 i).toNat = (m.read i).toNat * 2 ^ 24 + (m.read (i + 1)).toNat * 2 ^ 16 +
      (m.read (i + 2)).toNat * 2 ^ 8 + (m.read (i + 3)).toNat := by
    rw [Memory.read4, append_toNat, append_toNat, append_toNat]
    omega
  rw [← value, BitVec.ofNat_toNat, BitVec.setWidth_eq]

/-- Settles O19: the value of a one-byte field is its byte, zero-extended. -/
theorem rdbReadsOneDataByte : Obligations.RdbReadsOneDataByte := by
  intro s k hs
  rw [exec, execRdb]
  exact readField_outcomes hs (BitVec.ofNat_toNat ..).symm

/-- Settles O20: the value of a two-byte field is its word. -/
theorem rdwReadsABigEndianWord : Obligations.RdwReadsABigEndianWord := by
  intro s k hs
  rw [exec, execRdw]
  exact readField_outcomes hs (s.rxbuf.read2_setWidth _)

/-- Settles O21: the value of a four-byte field is its pattern. -/
theorem rdfReadsABigEndianPattern : Obligations.RdfReadsABigEndianPattern := by
  intro s k hs
  rw [exec, execRdf]
  exact readField_outcomes hs (s.rxbuf.read4_eq_ofNat _)

/-! ### The length of a string (R154) -/

/-- The length of a string is the index of its first NUL, or of its end. -/
theorem stringLength_eq_findIdx (bs : List Byte) : stringLength bs = bs.findIdx (fun b => b == 0x00#8) := by
  have nul : (fun b : Byte => !(b != 0x00#8)) = fun b => b == 0x00#8 := funext fun _ => Bool.not_not _
  rw [stringLength, List.takeWhile_eq_take_findIdx_not, List.length_take, nul, Nat.min_eq_left List.findIdx_le_length]

/-- No byte of the string is NUL. -/
theorem getD_ne_nul_of_lt_stringLength {bs : List Byte} {i : Nat} (h : i < stringLength bs) (d : Byte) :
    bs.getD i d ≠ 0x00#8 := by
  rw [List.getD_eq_getElem _ _ (h.trans_le (stringLength_le bs))]
  rw [stringLength_eq_findIdx] at h
  exact ne_of_beq_false (List.not_of_lt_findIdx h)

/-- A string that ends before the bytes do ends at a NUL. -/
theorem getD_stringLength {bs : List Byte} (h : stringLength bs < bs.length) (d : Byte) :
    bs.getD (stringLength bs) d = 0x00#8 := by
  rw [stringLength_eq_findIdx] at h ⊢
  rw [List.getD_eq_getElem _ _ h]
  exact eq_of_beq (List.findIdx_getElem (p := fun b => b == 0x00#8))

/-- The data bytes RDS examines: all but the last. -/
def keptBytes (s : State) : List Byte := s.rxbuf.readBytes 4 (keptLength s.rxDlen.toNat)

theorem keptBytes_length (s : State) : (keptBytes s).length = s.rxDlen.toNat - 1 := by
  rw [keptBytes, Memory.readBytes_length, keptLength_eq]

theorem keptBytes_getD {s : State} {i : Nat} (h : i < s.rxDlen.toNat - 1) (d : Byte) :
    (keptBytes s).getD i d = dataByte s i :=
  Memory.readBytes_getD _ _ _ _ (by rwa [keptLength_eq]) _

/-- RDS puts the length of the string in the bytes it examines into RESULT; in a legal state these lie inside RXBUF. -/
theorem execRds_stringLength {s : State} (hs : Inv s) (hp : s.rxPresent = true) : execRds s =
    .next { s with result := BitVec.ofNat 32 (stringLength (keptBytes s)), status := 0x00#8 } := by
  have inside := hs.dataField_le hp
  exact execRds_value hp (by rw [keptLength_eq]; omega)

/-- Settles O22: n is the length of the string in the data bytes that RDS examines. -/
theorem rdsMeasuresTheString : Obligations.RdsMeasuresTheString := by
  refine fun s hs => ⟨execRds_absent, fun hp => ⟨_, execRds_stringLength hs hp, ?_⟩⟩
  have bound : stringLength (keptBytes s) ≤ s.rxDlen.toNat - 1 :=
    (stringLength_le _).trans_eq (keptBytes_length s)
  refine ⟨bound, fun i hi => ?_, fun hend => ?_⟩
  · rw [← keptBytes_getD (hi.trans_le bound) 0x00#8]
    exact getD_ne_nul_of_lt_stringLength hi _
  · rw [← keptBytes_getD hend 0x00#8]
    exact getD_stringLength (hend.trans_eq (keptBytes_length s).symm) _

end Sys2Proof.Machine

/-! PROOFS. The control family (spec/44_control.md): NOP. -/

namespace Sys2Proof.Machine

/-- Completing with OK writes STATUS alone: STICKY takes no bit (R183). -/
theorem State.completed_ok (s : State) : s.completed .ok = { s with status := 0x00#8 } := by
  rw [State.completed, stickyAfter_ok, StatusCode.code]

/-- Settles O11: NOP is a completion with OK and nothing before it. -/
theorem nopWritesOnlyStatus : Obligations.NopWritesOnlyStatus := fun s =>
  calc exec .nop s
    _ = .next (s.completed .ok) := complete_eq .ok s
    _ = .next { s with status := 0x00#8 } := by rw [s.completed_ok]

end Sys2Proof.Machine

/-! PROOFS. The exceptions family (spec/60_exceptions.md): the codes a command can end with, that no legal state stops,
and that STICKY records every code. -/

namespace Sys2Proof.Machine

/-! ### The codes of each command (R181) -/

/-- A computation ends with the code of the state it answers. -/
theorem status_of_next {r : Result} {t u : State} (e : r = .next u) (h : r = .next t) : t.status = u.status :=
  congrArg State.status (next_inj.1 (h.symm.trans e))

theorem encodeTelegram_status {tt : BitVec 2} {obj : Byte} {len : BitVec 5} {ps : List Byte} {n : Fin 22} {s t : State}
    (h : encodeTelegram tt obj len ps n s = .next t) : t.status = 0x00#8 ∨ t.status = 0x02#8 := by
  rcases encodeTelegram_cases tt obj len ps n s with ⟨_, encoded⟩ | ⟨_, illegal⟩
  · exact .inl (status_of_next encoded h)
  · exact .inr (status_of_next illegal h)

theorem execPpush_status {b : Byte} {s t : State} (h : execPpush b s = .next t) :
    t.status = 0x00#8 ∨ t.status = 0x03#8 := by
  rcases execPpush_cases b s with ⟨_, staged⟩ | ⟨_, full⟩
  · exact .inl (status_of_next staged h)
  · exact .inr (status_of_next full h)

theorem execRxpush_status {b : Byte} {s t : State} (h : execRxpush b s = .next t) :
    t.status = 0x00#8 ∨ t.status = 0x05#8 := by
  rcases execRxpush_cases b s with ⟨_, overflowed⟩ | ⟨_, outside⟩ | ⟨_, appended⟩
  · exact .inr (status_of_next overflowed h)
  · exact nomatch outside.symm.trans h
  · exact .inl (status_of_next appended h)

theorem execDecode_status {s t : State} (h : execDecode s = .next t) :
    t.status = 0x00#8 ∨ t.status = 0x01#8 ∨ t.status = 0x04#8 ∨ t.status = 0x05#8 := by
  rcases execDecode_cases s with ⟨_, overflowed⟩ | ⟨_, _, short⟩ | ⟨_, _, _, outside⟩ | ⟨_, _, _, decoded⟩
  · exact .inr (.inr (.inr (status_of_next overflowed h)))
  · exact .inr (.inr (.inl (status_of_next short h)))
  · exact nomatch outside.symm.trans h
  · rw [status_of_next decoded h, State.completed_status]
    split
    · exact .inl rfl
    · exact .inr (.inl rfl)

theorem readField_status {k : BitVec 8} {width : Nat} {v : Memory → Nat → BitVec 32} {s t : State}
    (h : readField k width v s = .next t) : t.status = 0x00#8 ∨ t.status = 0x06#8 ∨ t.status = 0x07#8 := by
  rcases readField_cases k width v s with ⟨_, absent⟩ | ⟨_, _, outOfRange⟩ | ⟨_, _, _, outside⟩ | ⟨_, _, _, value⟩
  · exact .inr (.inl (status_of_next absent h))
  · exact .inr (.inr (status_of_next outOfRange h))
  · exact nomatch outside.symm.trans h
  · exact .inl (status_of_next value h)

theorem execRds_status {s t : State} (h : execRds s = .next t) : t.status = 0x00#8 ∨ t.status = 0x06#8 := by
  rcases execRds_cases s with ⟨_, absent⟩ | ⟨_, _, outside⟩ | ⟨_, _, value⟩
  · exact .inr (status_of_next absent h)
  · exact nomatch outside.symm.trans h
  · exact .inl (status_of_next value h)

/-- Settles O26, command by command: the two encodes share their codes, and so do the three reads of a field. -/
theorem eachCommandReportsItsOwnCodes : Obligations.EachCommandReportsItsOwnCodes := by
  intro i s t h
  cases i with
  | nop | pclr | rxclr => exact status_of_next (complete_eq .ok _) h
  | encq obj len | encc obj len => exact encodeTelegram_status h
  | ppush b => exact execPpush_status h
  | rxpush b => exact execRxpush_status h
  | decode => exact execDecode_status h
  | rdb k =>
    rw [exec, execRdb] at h
    exact readField_status h
  | rdw k =>
    rw [exec, execRdw] at h
    exact readField_status h
  | rdf k =>
    rw [exec, execRdf] at h
    exact readField_status h
  | rds => exact execRds_status h

/-! ### In a legal state no command stops (R180, R190) -/

/-- The computation ends in a next state, with neither a fault nor a refusal. -/
def Answers (r : Result) : Prop := ∃ t, r = .next t

theorem encodeTelegram_answers (tt : BitVec 2) (obj : Byte) (len : BitVec 5) (ps : List Byte) (n : Fin 22) (s : State) :
    Answers (encodeTelegram tt obj len ps n s) := by
  rcases encodeTelegram_cases tt obj len ps n s with ⟨_, encoded⟩ | ⟨_, illegal⟩
  · exact ⟨_, encoded⟩
  · exact ⟨_, illegal⟩

theorem execPpush_answers (b : Byte) (s : State) : Answers (execPpush b s) := by
  rcases execPpush_cases b s with ⟨_, staged⟩ | ⟨_, full⟩
  · exact ⟨_, staged⟩
  · exact ⟨_, full⟩

section
variable {s : State} (hs : Inv s)
include hs

/-- RXLEN is no more than the capacity (R29), so the byte is never pushed outside RXBUF. -/
theorem execRxpush_answers (b : Byte) : Answers (execRxpush b s) := by
  rcases execRxpush_cases b s with ⟨_, overflowed⟩ | ⟨outside, _⟩ | ⟨_, appended⟩
  · exact ⟨_, overflowed⟩
  · exact absurd outside (Nat.not_lt.2 hs.rxlen_le)
  · exact ⟨_, appended⟩

/-- RXLEN is no more than the capacity (R29), so the received bytes all lie in RXBUF. -/
theorem execDecode_answers : Answers (execDecode s) := by
  rcases execDecode_cases s with ⟨_, overflowed⟩ | ⟨_, _, short⟩ | ⟨_, _, outside, _⟩ | ⟨_, _, _, decoded⟩
  · exact ⟨_, overflowed⟩
  · exact ⟨_, short⟩
  · exact absurd outside (Nat.not_lt.2 hs.rxlen_le)
  · exact ⟨_, decoded⟩

/-- A field that DataCheck accepts lies in the data field, which ends inside RXBUF (R39). -/
theorem readField_answers (k : BitVec 8) (width : Nat) (v : Memory → Nat → BitVec 32) :
    Answers (readField k width v s) := by
  rcases readField_cases k width v s with ⟨_, absent⟩ | ⟨_, _, outOfRange⟩ | ⟨hp, hd, outside, _⟩ | ⟨_, _, _, value⟩
  · exact ⟨_, absent⟩
  · exact ⟨_, outOfRange⟩
  · have inside := hs.dataField_le hp
    rw [dataOff_eq] at outside
    omega
  · exact ⟨_, value⟩

/-- RDS examines bytes of the data field, which ends inside RXBUF (R39). -/
theorem execRds_answers : Answers (execRds s) := by
  cases hp : s.rxPresent
  · exact ⟨_, execRds_absent hp⟩
  · exact ⟨_, execRds_stringLength hs hp⟩

/-- Only the model's stops (note 4) end a command without a next state, and a legal state meets the guard of none. -/
theorem exec_answers (i : Instr) : Answers (exec i s) := by
  cases i with
  | nop | pclr | rxclr => exact ⟨_, complete_eq .ok _⟩
  | encq obj len | encc obj len => exact encodeTelegram_answers ..
  | ppush b => exact execPpush_answers b s
  | rxpush b => exact execRxpush_answers hs b
  | decode => exact execDecode_answers hs
  | rdb k =>
    rw [exec, execRdb]
    exact readField_answers hs k 1 _
  | rdw k =>
    rw [exec, execRdw]
    exact readField_answers hs k 2 _
  | rdf k =>
    rw [exec, execRdf]
    exact readField_answers hs k 4 _
  | rds => exact execRds_answers hs

theorem hostCommand_answers (w : CommandWord) : Answers (hostCommand w s) := by
  rcases hostCommand_cases w s with ⟨i, _, legal⟩ | ⟨_, _, illegal⟩
  · exact legal ▸ exec_answers hs i
  · exact ⟨_, illegal⟩

/-- A command word, legal or not, leads from a legal state to a legal one. -/
theorem hostCommand_inv {w : CommandWord} {t : State} (h : hostCommand w s = .next t) : Inv t := by
  rcases hostCommand_cases w s with ⟨i, _, legal⟩ | ⟨_, _, illegal⟩
  · exact (exec_effect (legal.symm.trans h)).inv hs
  · obtain rfl := next_inj.1 (illegal.symm.trans h)
    exact hs.raised (by decide) (by decide)

end

/-- Settles O34, by the action the step takes: only a command could stop, and in a legal state none does. -/
theorem noLegalStateStops : Obligations.NoLegalStateStops := by
  intro s hs
  rcases step_cases s with ⟨_, idle⟩ | ⟨w, rest, _, command⟩ | ⟨_, _, _, read⟩ | ⟨_, _, reset⟩
  · exact ⟨_, idle⟩
  · obtain ⟨t, answer⟩ := hostCommand_answers (hs.withHost rest s.readReply) w
    exact ⟨t, command.trans answer⟩
  · exact ⟨_, read⟩
  · exact ⟨_, reset⟩

/-! ### STICKY records every code (R182 to R184) -/

/-- STATUS and STICKY of t are those that a command run from s leaves when it ends with code e (R182, R183). -/
def EndsWith (e : StatusCode) (s t : State) : Prop := t.status = e.code ∧ t.sticky = stickyAfter e s.sticky

theorem State.raised_endsWith {e : StatusCode} (h : e ≠ .ok) (s : State) : EndsWith e s (s.raised e) :=
  ⟨rfl, (stickyAfter_error h s.sticky).symm⟩

theorem State.completed_endsWith {e : StatusCode} {s u : State} (h : u.sticky = s.sticky) :
    EndsWith e s (u.completed e) :=
  ⟨rfl, congrArg (stickyAfter e) h⟩

/-- Each command ends through `raise` or `complete`, and writes neither register before. -/
theorem CommandEffect.endsWith {i : Instr} {s t : State} (h : CommandEffect s i t) : ∃ e, EndsWith e s t := by
  cases h with
  | reported hok _ => exact ⟨_, s.raised_endsWith hok⟩
  | _ => exact ⟨_, State.completed_endsWith rfl⟩

theorem hostCommand_endsWith {w : CommandWord} {s t : State} (h : hostCommand w s = .next t) :
    ∃ e, EndsWith e s t := by
  rcases hostCommand_cases w s with ⟨i, _, legal⟩ | ⟨_, _, illegal⟩
  · exact (exec_effect (legal.symm.trans h)).endsWith
  · obtain rfl := next_inj.1 (illegal.symm.trans h)
    exact ⟨_, s.raised_endsWith (by decide)⟩

theorem StatusCode.code_toNat_lt (e : StatusCode) : e.code.toNat < 32 := by cases e <;> decide

/-- The STICKY bit of a code is the bit of its number. -/
theorem StatusCode.bit_getLsbD_iff (e : StatusCode) {c : Nat} (hc : c ≤ 8) :
    e.bit.getLsbD c = true ↔ BitVec.ofNat 8 c = e.code := by
  have number : (BitVec.ofNat 8 c).toNat = c := Nat.mod_eq_of_lt (by omega)
  rw [StatusCode.bit, ← BitVec.twoPow_eq, BitVec.getLsbD_twoPow, decide_eq_true e.code_toNat_lt, Bool.true_and,
    decide_eq_true_iff, ← BitVec.toNat_inj, number, eq_comm]

/-- A command adds to STICKY the bit of its code, OK having none. -/
theorem stickyAfter_getLsbD_iff (e : StatusCode) (v : BitVec 32) {c : Nat} (hmin : 1 ≤ c) (hmax : c ≤ 8) :
    (stickyAfter e v).getLsbD c = true ↔ v.getLsbD c = true ∨ BitVec.ofNat 8 c = e.code := by
  by_cases hok : e = .ok
  · have notOk : BitVec.ofNat 8 c ≠ StatusCode.ok.code := by
      rw [StatusCode.code]
      bv_omega
    rw [hok, stickyAfter_ok, or_iff_left notOk]
  · rw [stickyAfter_error hok, BitVec.getLsbD_or, Bool.or_eq_true, e.bit_getLsbD_iff hmax]

/-- STICKY of t holds the error bits of s and those of the codes, and no other. -/
def StickyRecords (codes : List (BitVec 8)) (s t : State) : Prop :=
  ∀ c : Nat, 1 ≤ c → c ≤ 8 → (t.sticky.getLsbD c = true ↔ s.sticky.getLsbD c = true ∨ BitVec.ofNat 8 c ∈ codes)

theorem StickyRecords.nil (s : State) : StickyRecords [] s s := fun _ _ _ =>
  (or_iff_left List.not_mem_nil).symm

/-- The code of one command joins those of the commands after it. -/
theorem StickyRecords.cons {e : StatusCode} {codes : List (BitVec 8)} {s t u : State} (first : EndsWith e s t)
    (later : StickyRecords codes t u) : StickyRecords (t.status :: codes) s u := by
  intro c hmin hmax
  obtain ⟨status, sticky⟩ := first
  rw [later c hmin hmax, sticky, stickyAfter_getLsbD_iff e s.sticky hmin hmax, List.mem_cons, status, or_assoc]

theorem runWords_cons {w : CommandWord} {ws : List CommandWord} {s t u : State} {codes : List (BitVec 8)}
    (first : hostCommand w s = .next t) (later : runWords ws t = some (u, codes)) :
    runWords (w :: ws) s = some (u, t.status :: codes) := by
  simp only [runWords, first, later, Option.map_some]

/-- From a legal state any sequence of words runs to its end, and STICKY records its codes. -/
theorem runWords_stickyRecords (ws : List CommandWord) {s : State} (hs : Inv s) :
    ∃ t codes, runWords ws s = some (t, codes) ∧ codes.length = ws.length ∧ StickyRecords codes s t := by
  induction ws generalizing s with
  | nil => exact ⟨s, [], rfl, rfl, .nil s⟩
  | cons w ws ih =>
    obtain ⟨t, first⟩ := hostCommand_answers hs w
    obtain ⟨e, ends⟩ := hostCommand_endsWith first
    obtain ⟨u, codes, later, length, records⟩ := ih (hostCommand_inv hs first)
    exact ⟨u, t.status :: codes, runWords_cons first later, congrArg (· + 1) length, records.cons ends⟩

/-- Settles O27: HostReset leads to a legal state too, and leaves STICKY with no bit set. -/
theorem stickyRecordsEveryCode : Obligations.StickyRecordsEveryCode := by
  refine fun s ws hs => ⟨runWords_stickyRecords ws hs, ?_⟩
  obtain ⟨t, codes, run, length, records⟩ := runWords_stickyRecords ws (inv_hostReset hs.rxCap_range)
  refine ⟨t, codes, run, length, fun c hmin hmax => ?_⟩
  have clear : ¬ (hostReset s).sticky.getLsbD c = true := by simp
  rw [records c hmin hmax, or_iff_right clear]

end Sys2Proof.Machine

/-! PROOFS. The reset and hazards family (spec/70_reset_and_hazards.md): what a reset leaves in every register and buffer,
and that a withdrawn telegram stays withdrawn until DECODE. -/

namespace Sys2Proof.Machine

/-! ### Reset (R200, R201) -/

theorem hostReset_noTelegram (s : State) : NoTelegram (hostReset s) := ⟨rfl, rfl, rfl, rfl, rfl, rfl, rfl, rfl⟩

/-- The initial state is one that HostReset leaves (R201). -/
theorem hostReset_reset : hostReset State.reset = State.reset := rfl

/-- Settles O8: the initial state is what HostReset makes of it, so the outcome of HostReset is the only one to look at; its
buffers list no cell, and an unlisted byte reads 0x00. -/
theorem resetClearsEveryRegister : Obligations.ResetClearsEveryRegister := by
  intro s t h
  obtain ⟨u, rfl⟩ : ∃ u, t = hostReset u := by
    rcases h with afterReset | initial
    · exact ⟨s, afterReset⟩
    · exact ⟨State.reset, initial.trans hostReset_reset.symm⟩
  exact ⟨rfl, rfl, rfl, Memory.read_nil, rfl, Memory.read_nil, rfl, Memory.read_nil, rfl, rfl, hostReset_noTelegram u⟩

/-! ### The withdrawn telegram (R130 to R133, R208) -/

/-- RXPUSH runs ClearRx whether it stores the byte or overflows (R132). -/
theorem execRxpush_withdraws {b : Byte} {s t : State} (h : execRxpush b s = .next t) : t.rxPresent = false := by
  rcases execRxpush_cases b s with ⟨_, overflowed⟩ | ⟨_, outside⟩ | ⟨_, appended⟩
  · obtain rfl := next_inj.1 (overflowed.symm.trans h)
    rfl
  · exact nomatch outside.symm.trans h
  · obtain rfl := next_inj.1 (appended.symm.trans h)
    rfl

/-- RXCLR and RXPUSH leave no telegram decoded (R131, R132). -/
theorem exec_withdraws {i : Instr} {s t : State} (hi : i = .rxclr ∨ ∃ b, i = .rxpush b) (h : exec i s = .next t) :
    t.rxPresent = false := by
  obtain rfl | ⟨b, rfl⟩ := hi
  · obtain rfl := next_inj.1 h
    rfl
  · exact execRxpush_withdraws h

/-- No command but DECODE makes a telegram present (R31, R133). -/
theorem CommandEffect.keeps_absent {i : Instr} {s t : State} (h : CommandEffect s i t) (hi : i ≠ .decode)
    (hs : s.rxPresent = false) : t.rxPresent = false := by
  cases h with
  | decoded => exact absurd rfl hi
  | rxclr | overflowed | appended => rfl
  | _ => exact hs

/-- A sequence that runs to its end ran its first command, and then the others. -/
theorem execAll_cons_eq_some {i : Instr} {is : List Instr} {s t : State} (h : execAll (i :: is) s = some t) :
    ∃ u, exec i s = .next u ∧ execAll is u = some t := by
  cases first : exec i s with
  | next u => exact ⟨u, rfl, (execAll_cons first).symm.trans h⟩
  | fault r => simp [execAll, first] at h
  | refused r => simp [execAll, first] at h

/-- With no telegram decoded, none is after any commands but DECODE. -/
theorem execAll_keeps_absent {is : List Instr} {s t : State} (hdec : .decode ∉ is) (hs : s.rxPresent = false)
    (h : execAll is s = some t) : t.rxPresent = false := by
  induction is generalizing s with
  | nil =>
    obtain rfl := Option.some.inj h
    exact hs
  | cons i is ih =>
    obtain ⟨u, first, later⟩ := execAll_cons_eq_some h
    obtain ⟨hi, hrest⟩ := List.ne_and_not_mem_of_not_mem_cons hdec
    exact ih hrest ((exec_effect first).keeps_absent hi.symm hs) later

/-- With no telegram decoded, each of the four field reads reports ERR_NOFRAME (R150, R154). -/
theorem exec_fieldRead_absent {i : Instr} {s : State} (hi : isFieldRead i = true) (hs : s.rxPresent = false) :
    exec i s = .next (s.raised .errNoframe) := by
  cases i with
  | rdb k =>
    rw [exec, execRdb]
    exact readField_absent hs
  | rdw k =>
    rw [exec, execRdw]
    exact readField_absent hs
  | rdf k =>
    rw [exec, execRdf]
    exact readField_absent hs
  | rds => exact execRds_absent hs
  | _ => exact nomatch hi

/-- Settles O31: the first command leaves no telegram decoded, the commands after it keep it so, and then a field read can
only report ERR_NOFRAME. -/
theorem withdrawnTelegramStaysWithdrawn : Obligations.WithdrawnTelegramStaysWithdrawn := by
  intro s t first rd is hfirst hdec hrd h
  obtain ⟨u, withdrawn, later⟩ := execAll_cons_eq_some h
  have absent : t.rxPresent = false := execAll_keeps_absent hdec (exec_withdraws hfirst withdrawn) later
  exact exec_fieldRead_absent hrd absent

end Sys2Proof.Machine
